-- ==== Sys2Proof/Word.lean ====
section
/-!
DEFINITION. The word types of the machine: data words and bytes, program words, data and program addresses
(spec/10_state.md R21, R22; spec/20_memory.md R70, R78).
-/

namespace Sys2Proof

/-- A 16-bit data word, the width of every register of the module (R3, R22). -/
abbrev Word := BitVec 16

/-- A byte of data space (R78). -/
abbrev Byte := BitVec 8

/-- A 24-bit program-memory word: an instruction word or a vector (R70, R100). -/
abbrev ProgWord := BitVec 24

/-- A program address: PCW = 23 bits, of which bit 0 is 0 (R11, R21, decision D21). -/
abbrev ProgAddr := BitVec 23

/-- A data-space address, 16 bits (R78). -/
abbrev DataAddr := BitVec 16

/-- The number of an interrupt vector, 0 to 117 (R174). -/
abbrev Vec := Fin 118

/-- The number of a working register, 0 to 15 (R22). -/
abbrev WReg := Fin 16

end Sys2Proof
end

