-- ==== Sys2Proof/Syntax.lean ====
section
/-!
DEFINITION. The instructions: one constructor for each of the 17 rows of spec/opcode_table.json (spec/30_encoding.md R104,
R105), with its operands as spec/40 and spec/41 name them.
-/

namespace Sys2Proof

/-- An instruction of the opcode table. -/
inductive Instr where
  /-- `DISI #lit14` (R120). -/
  | disi (lit14 : BitVec 14)
  /-- `RETFIE` (R126). -/
  | retfie
  /-- `GOTO Expr` (R140): `target` is a program address with bit 0 = 0. -/
  | goto (target : ProgAddr)
  /-- `BRA Expr` (R141): `n` is the signed word offset. -/
  | bra (n : BitVec 16)
  /-- `RETURN` (R142). -/
  | ret
  /-- `RESET` (R143). -/
  | reset
  /-- `PWRSAV #lit1` (R144): 0 is Sleep, 1 is Idle. -/
  | pwrsav (lit1 : BitVec 1)
  /-- `PUSH f` (R145): `f` is an even data address. -/
  | push (f : DataAddr)
  /-- `POP f` (R146): `f` is an even data address. -/
  | pop (f : DataAddr)
  /-- `NOP` (R147): the low 16 bits of its word are ignored. -/
  | nop
  /-- `MOV #lit16, Wnd` (R152). -/
  | movLit (lit16 : Word) (d : WReg)
  /-- `MOV Wns, f` (R153): `f` is an even data address. -/
  | movToFile (s : WReg) (f : DataAddr)
  /-- `MOV f, Wnd` (R154): `f` is an even data address. -/
  | movFromFile (f : DataAddr) (d : WReg)
  /-- `BSET f, #bit4` (R155): `f` is an even byte address in the first 8192 bytes. -/
  | bset (f : BitVec 13) (bit4 : BitVec 4)
  /-- `BCLR f, #bit4` (R156): operands as BSET. -/
  | bclr (f : BitVec 13) (bit4 : BitVec 4)
  /-- `IOR #lit10, Wn` (R157), word mode. -/
  | iorLit (lit10 : BitVec 10) (n : WReg)
  /-- `MOV [Ws], Wd` (R158), word mode. -/
  | movInd (s : WReg) (d : WReg)
deriving DecidableEq, Repr

/-- Why the decoder refuses a word (R107, U15, U16). -/
inductive DecodeError where
  /-- No row of the opcode table matches the word (R107, U15). -/
  | unknownWord
  /-- The second word of a GOTO has a bit above 6 set (U16). -/
  | gotoSecondWord
  /-- A list of words ends before the instruction does; the machine's fetch never gives such a list. -/
  | truncated
deriving DecidableEq, Repr

end Sys2Proof
end

