-- ==== Sys2Proof/WellFormed.lean ====
section
/-!
DEFINITION. Which instruction terms have an encoding: a program target, a file address and the base of a bit operand are even
(spec/30_encoding.md R102, R103; spec/41_referenced_instructions.md R140, R145, R146, R153 to R156).
-/

namespace Sys2Proof

/-- The operands are ones the encoding can hold. -/
def Instr.wellFormed : Instr → Bool
  | .goto target => !target.getLsbD 0
  | .push f => !f.getLsbD 0
  | .pop f => !f.getLsbD 0
  | .movToFile _ f => !f.getLsbD 0
  | .movFromFile f _ => !f.getLsbD 0
  | .bset f _ => !f.getLsbD 0
  | .bclr f _ => !f.getLsbD 0
  | .disi _ => true
  | .retfie => true
  | .bra _ => true
  | .ret => true
  | .reset => true
  | .pwrsav _ => true
  | .nop => true
  | .movLit _ _ => true
  | .iorLit _ _ => true
  | .movInd _ _ => true

end Sys2Proof
end

