-- ==== Sys2Proof/Decode.lean ====
section
/-!
DEFINITION. Decoding, total on every pair of words, and the encoder, both from spec/30_encoding.md R101 to R105 and
spec/opcode_table.json. The encodings are general knowledge there: UNVERIFIED, unsafe (log 28).
-/

namespace Sys2Proof

/-- The register number in a 4-bit field (R102). -/
def wField (x : BitVec 4) : WReg := ⟨x.toNat, x.isLt⟩

/-- The 4-bit field of a register number (R102). -/
def regField (n : WReg) : BitVec 4 := BitVec.ofNat 4 n.val

/-- A first word that a second word follows: top byte 0x04 and bit 0 clear (R101). -/
def isTwoWord (w : ProgWord) : Bool :=
  w.extractLsb' 16 8 = 0x04#8 ∧ w.extractLsb' 0 1 = 0#1

/-- Bits 15:1 of a file-register operand become the even address (R102, F-FILE16 and F-MOVF). -/
def fileAddr (x : BitVec 15) : DataAddr := x ++ 0#1

/-- Decodes an instruction from its first word and the word after it, which only GOTO reads (R101 to R105). Exactly the rows
of the opcode table are decoded; every other word is rejected by name (R107). IOR with B = 1, the byte mode of R102 and R105 that
no rule gives an operation, is such a word: the row and R157 hold B = 0 (DESIGN CHOICE, log 38). -/
def decode (w1 w2 : ProgWord) : Except DecodeError Instr :=
  if w1.extractLsb' 14 10 = 0x3F0#10 then .ok (.disi (w1.extractLsb' 0 14))
  else if w1 = 0x064000#24 then .ok .retfie
  else if isTwoWord w1 then
    if w2.extractLsb' 7 17 = 0#17 then .ok (.goto (w2.extractLsb' 0 7 ++ w1.extractLsb' 1 15 ++ 0#1))
    else .error .gotoSecondWord
  else if w1.extractLsb' 16 8 = 0x37#8 then .ok (.bra (w1.extractLsb' 0 16))
  else if w1 = 0x060000#24 then .ok .ret
  else if w1 = 0xFE0000#24 then .ok .reset
  else if w1.extractLsb' 1 23 = 0x7F2000#23 then .ok (.pwrsav (w1.extractLsb' 0 1))
  else if w1.extractLsb' 16 8 = 0xF8#8 ∧ w1.extractLsb' 0 1 = 0#1 then .ok (.push (fileAddr (w1.extractLsb' 1 15)))
  else if w1.extractLsb' 16 8 = 0xF9#8 ∧ w1.extractLsb' 0 1 = 0#1 then .ok (.pop (fileAddr (w1.extractLsb' 1 15)))
  else if w1.extractLsb' 16 8 = 0x00#8 then .ok .nop
  else if w1.extractLsb' 20 4 = 0x2#4 then .ok (.movLit (w1.extractLsb' 4 16) (wField (w1.extractLsb' 0 4)))
  else if w1.extractLsb' 19 5 = 0x11#5 then
    .ok (.movToFile (wField (w1.extractLsb' 0 4)) (fileAddr (w1.extractLsb' 4 15)))
  else if w1.extractLsb' 19 5 = 0x10#5 then
    .ok (.movFromFile (fileAddr (w1.extractLsb' 4 15)) (wField (w1.extractLsb' 0 4)))
  else if w1.extractLsb' 16 8 = 0xA8#8 then
    .ok (.bset (w1.extractLsb' 1 12 ++ 0#1) (w1.extractLsb' 0 1 ++ w1.extractLsb' 13 3))
  else if w1.extractLsb' 16 8 = 0xA9#8 then
    .ok (.bclr (w1.extractLsb' 1 12 ++ 0#1) (w1.extractLsb' 0 1 ++ w1.extractLsb' 13 3))
  else if w1.extractLsb' 14 10 = 0x2CC#10 then
    .ok (.iorLit (w1.extractLsb' 4 10) (wField (w1.extractLsb' 0 4)))
  else if w1.extractLsb' 11 13 = 0x0F00#13 ∧ w1.extractLsb' 4 3 = 0x1#3 then
    .ok (.movInd (wField (w1.extractLsb' 0 4)) (wField (w1.extractLsb' 7 4)))
  else .error .unknownWord

/-- Decodes the instruction at the head of a list of words and gives the words after it. -/
def decodeWords : List ProgWord → Except DecodeError (Instr × List ProgWord)
  | [] => .error .truncated
  | w1 :: rest =>
    if isTwoWord w1 then
      match rest with
      | [] => .error .truncated
      | w2 :: rest' => (decode w1 w2).map (fun i => (i, rest'))
    else (decode w1 0#24).map (fun i => (i, rest))

/-- The two words of a number laid out as spec/opcode_table.json numbers bits: the first word is bits 23:0, the second
bits 47:24; every bit at or above `nbits` is 0. -/
def tableWords (nbits w : Nat) : ProgWord × ProgWord :=
  let x := w % 2 ^ nbits
  (BitVec.ofNat 24 x, BitVec.ofNat 24 (x / 2 ^ 24))

/-- What the decoder reads from an instruction whose bits are `w`. -/
def decodeTableWord (nbits w : Nat) : Option Instr :=
  match decode (tableWords nbits w).1 (tableWords nbits w).2 with
  | .ok i => some i
  | .error _ => none

/-- The words of a well-formed instruction (R102 to R105). -/
def encode : Instr → List ProgWord
  | .disi k => [0x3F0#10 ++ k]
  | .retfie => [0x064000#24]
  | .goto t => [0x04#8 ++ t.extractLsb' 1 15 ++ 0#1, 0#17 ++ t.extractLsb' 16 7]
  | .bra n => [0x37#8 ++ n]
  | .ret => [0x060000#24]
  | .reset => [0xFE0000#24]
  | .pwrsav k => [0x7F2000#23 ++ k]
  | .push f => [0xF8#8 ++ f.extractLsb' 1 15 ++ 0#1]
  | .pop f => [0xF9#8 ++ f.extractLsb' 1 15 ++ 0#1]
  | .nop => [0x000000#24]
  | .movLit k d => [0x2#4 ++ k ++ regField d]
  | .movToFile s f => [0x11#5 ++ f.extractLsb' 1 15 ++ regField s]
  | .movFromFile f d => [0x10#5 ++ f.extractLsb' 1 15 ++ regField d]
  | .bset f b => [0xA8#8 ++ b.extractLsb' 0 3 ++ f.extractLsb' 1 12 ++ b.extractLsb' 3 1]
  | .bclr f b => [0xA9#8 ++ b.extractLsb' 0 3 ++ f.extractLsb' 1 12 ++ b.extractLsb' 3 1]
  | .iorLit k n => [0x2CC#10 ++ k ++ regField n]
  | .movInd s d => [0x0F00#13 ++ regField d ++ 0x1#3 ++ regField s]

end Sys2Proof
end

