-- ==== Sys2Proof/Machine/BitField.lean ====
section
/-!
DEFINITION. Bit-field helpers: one bit, a masked merge, the bytes of a word (spec/00_scope.md section 5.1).
-/

namespace Sys2Proof.Machine

/-- `x` with bit `b` set to `v`. -/
def setBit {n : Nat} (x : BitVec n) (b : Nat) (v : Bool) : BitVec n :=
  if v then x ||| BitVec.twoPow n b else x &&& ~~~BitVec.twoPow n b

/-- The bits of `new` where `mask` is 1, of `old` elsewhere. -/
def blend (mask old new : Word) : Word :=
  (old &&& ~~~mask) ||| (new &&& mask)

/-- Bits 7:0 of a word. -/
def loByte (x : Word) : Byte := x.extractLsb' 0 8

/-- Bits 15:8 of a word. -/
def hiByte (x : Word) : Byte := x.extractLsb' 8 8

/-- The byte of a word that a lane names: the upper byte for `true`. -/
def laneByte (upper : Bool) (x : Word) : Byte :=
  if upper then hiByte x else loByte x

/-- A word with one byte replaced. -/
def withLane (upper : Bool) (x : Word) (b : Byte) : Word :=
  if upper then b ++ loByte x else hiByte x ++ b

/-- The bits of a lane. -/
def laneMask (upper : Bool) : Word :=
  if upper then 0xFF00 else 0x00FF

/-- The even address of the word an address lies in. -/
def evenAddr (a : DataAddr) : DataAddr := a &&& 0xFFFE

end Sys2Proof.Machine
end

