-- ==== Sys2Proof/Config.lean ====
section
/-!
DEFINITION. What a device fixes (the configuration record of spec/00_scope.md R3 to R12) and the free values, constants
without a body for what the spec calls "any value" (spec/93_implementation_defined.md part 1).
-/

namespace Sys2Proof

/-- The names of the special function registers of spec/10_state.md that data space holds (R59, R60, R88), the data-space
image of the working registers among them (G4). -/
inductive Sfr where
  | w (n : Fin 16)
  | splim
  | sr
  | corcon
  | disicnt
  | intcon1
  | intcon2
  | ifs (n : Fin 8)
  | iec (n : Fin 8)
  | ipc (n : Fin 30)
  | rcon
  | osccon
deriving DecidableEq, Repr

/-- Parameter `BYTE_ORDER` (R87, decision D1). -/
inductive ByteOrder where
  | little
  | big
deriving DecidableEq, Repr

/-- The configuration record of a device (spec/00_scope.md section 4). Plain data: address sets are lists of inclusive
ranges, `SFR_ADDR` is a list of pairs. It stands in the state, and no step changes it (log 1). -/
structure Device where
  /-- `IMPL_VEC` (R4): bit `v` is 1 when interrupt vector `v` is implemented. -/
  implVec : BitVec 118
  /-- `N_EXT_INT` (R5): the number of external interrupt pins. -/
  nExtInt : Fin 6
  /-- `PROG_IMPL` (R6): the implemented program addresses, as inclusive ranges. -/
  progImpl : List (Nat × Nat)
  /-- `DATA_IMPL` (R6): the implemented data addresses, as inclusive ranges. -/
  dataImpl : List (Nat × Nat)
  /-- `FSCM_ENABLED` (R7). -/
  fscmEnabled : Bool
  /-- `SFR_ADDR` (R8): the even data address of each register. -/
  sfrAddr : List (Nat × Sfr)
  /-- `SOFT_TRAP_SKID_MAX` (R10). -/
  skidMax : Nat
  /-- `SW_TRAPFLAG_SET_TRAPS` (decision D7, OPEN). -/
  swTrapflagSetTraps : Bool
  /-- `PREEMPT_BEFORE_FIRST` (decision D17, OPEN). -/
  preemptBeforeFirst : Bool
  /-- `BYTE_ORDER` (decision D1). -/
  byteOrder : ByteOrder
  /-- `TRAP_WAKES` (decision D26). -/
  trapWakes : Bool
  /-- The order of a hardware flag set and a software write of the same flag in one slot (R56, R91, decision D16): true,
  hardware comes last (the spec's decision, R210); false, the written value stands (log 14). -/
  hwSetLast : Bool
deriving DecidableEq, Repr

/-- The value of a data word or byte whose read raised an address error (U18), of the bits of RCON and OSCCON the spec does
not describe, and of SPLIM after a reset (U1). DESIGN CHOICE, safe: no body, so a claim holds whatever it is (log 10). -/
opaque Config.freeWord : Nat → BitVec 16

/-- The word read from unimplemented program memory (U10): any value. DESIGN CHOICE, safe (log 9). -/
opaque Config.freeProg : Nat → BitVec 24

/-- The content of an implemented program word that nothing has programmed, by address. DESIGN CHOICE, safe (log 9). -/
opaque Config.progFill : Nat → BitVec 24

/-- The content of a data byte that nothing has written since the last reset, by reset epoch and address (U2).
DESIGN CHOICE, safe (log 8). -/
opaque Config.ramFill : Nat → Nat → BitVec 8

/-- The draw of a soft trap's skid before it is brought into range (U23, decision D11). DESIGN CHOICE, safe (log 11). -/
opaque Config.freeSkid : Nat → Nat

/-- PINPREV after a reset (U3). DESIGN CHOICE, safe (log 6). -/
opaque Config.freePins : Nat → BitVec 5

/-- OSCCON.CF after a reset (U4). DESIGN CHOICE, safe (log 5). -/
opaque Config.freeBit : Nat → Bool

/-- `SW_TRAPFLAG_SET_TRAPS` of the device at `State.reset`: OPEN in the spec (D7), so no value (log 2). -/
opaque Config.swTrapflagSetTraps : Bool

/-- `PREEMPT_BEFORE_FIRST` of the device at `State.reset`: OPEN in the spec (D17), so no value (log 2). -/
opaque Config.preemptBeforeFirst : Bool

/-- `FSCM_ENABLED` of the device at `State.reset`: an argument in the spec (R7), so no value (log 2). -/
opaque Config.fscmEnabled : Bool

end Sys2Proof
end

