-- ==== Sys2Proof/Machine/GenericDevice.lean ====
section
/-!
DEFINITION. The device of `State.reset`, with the register addresses of the family (spec/00_scope.md section 4, spec/10_state.md
R60, spec/93_implementation_defined.md G4, G7).
-/

namespace Sys2Proof

/-- The addresses of spec/10_state.md R60 and G4, G7. PRESUMED, unsafe: the source gives no address (log 3). -/
def Device.familySfrAddr : List (Nat × Sfr) :=
  (List.finRange 16).map (fun n => (2 * n.val, Sfr.w n))
    ++ [(0x0020, .splim), (0x0042, .sr), (0x0044, .corcon), (0x0052, .disicnt), (0x0080, .intcon1), (0x0082, .intcon2),
        (0x0740, .rcon), (0x0742, .osccon)]
    ++ (List.finRange 8).map (fun n => (0x0084 + 2 * n.val, Sfr.ifs n))
    ++ (List.finRange 8).map (fun n => (0x0094 + 2 * n.val, Sfr.iec n))
    ++ (List.finRange 30).map (fun n => (0x00A4 + 2 * n.val, Sfr.ipc n))

/-- The device of `State.reset`: the suggested defaults of spec/00_scope.md section 4, the common parameters of
spec/95_test_vectors.md part 3, and an opaque constant where the spec suggests nothing. DESIGN CHOICE, unsafe (log 1). -/
def Device.generic : Device where
  implVec := BitVec.allOnes 118
  nExtInt := 5
  progImpl := [(0x000000, 0x0007FE)]
  dataImpl := [(0x0000, 0x0FFF)]
  fscmEnabled := Config.fscmEnabled
  sfrAddr := Device.familySfrAddr
  skidMax := 1
  swTrapflagSetTraps := Config.swTrapflagSetTraps
  preemptBeforeFirst := Config.preemptBeforeFirst
  byteOrder := .little
  trapWakes := true
  hwSetLast := true

end Sys2Proof
end

