-- ==== Sys2Proof/Machine/Memory.lean ====
section
/-!
DEFINITION. Memory as a list of (address, content) pairs with strictly rising addresses: data memory by bytes, program memory
by 24-bit words (spec/20_memory.md R70, R78). An address that is not listed holds nothing the program wrote.
-/

namespace Sys2Proof.Machine

/-- Data memory: the bytes the program has written since the last reset, by address (R78). -/
abbrev Memory := List Host.Cell

/-- Program memory: the words that have been programmed, by even address (R70). -/
abbrev ProgMemory := List (Nat × ProgWord)

/-- What the list holds at an address; `none` where nothing is listed. -/
def cellRead {α : Type} : List (Nat × α) → Nat → Option α
  | [], _ => none
  | (k, x) :: rest, a => if k = a then some x else cellRead rest a

/-- Puts a content at an address, keeping the addresses strictly rising. -/
def cellWrite {α : Type} : List (Nat × α) → Nat → α → List (Nat × α)
  | [], a, x => [(a, x)]
  | (k, y) :: rest, a, x =>
    if a < k then (a, x) :: (k, y) :: rest
    else if a = k then (a, x) :: rest
    else (k, y) :: cellWrite rest a x

/-- Every address of the list is above `lo`. -/
def cellsAbove {α : Type} (lo : Nat) : List (Nat × α) → Bool
  | [] => true
  | (k, _) :: rest => decide (lo < k) && cellsAbove lo rest

/-- The addresses rise strictly. -/
def cellsRising {α : Type} : List (Nat × α) → Bool
  | [] => true
  | (k, _) :: rest => cellsAbove k rest && cellsRising rest

/-- The canonical form of data memory: strictly rising addresses, all inside the 16-bit data space (R78). An unlisted byte
reads as no written content, so no entry can equal it. -/
def Memory.wf (m : Memory) : Bool :=
  cellsRising m && m.all (fun c => decide (c.1 < 0x10000))

/-- The canonical form of program memory: strictly rising even addresses inside the 23-bit program space (R21, R70). -/
def ProgMemory.wf (p : ProgMemory) : Bool :=
  cellsRising p && p.all (fun c => decide (c.1 < 0x800000) && decide (c.1 % 2 = 0))

end Sys2Proof.Machine
end

