-- ==== Sys2Proof/Machine/State.lean ====
section
/-!
DEFINITION. The state of the machine, all of spec/10_state.md R20, the reasons a step can stop, and the machine right after
reset (R58). Plain data throughout.
-/

namespace Sys2Proof.Machine

/-- The four traps (R181). -/
inductive Trap where
  | oscillatorFail
  | addressError
  | stackError
  | mathError
deriving DecidableEq, Repr

/-- MODE (R49). -/
inductive Mode where
  | run
  | sleep
  | idle
deriving DecidableEq, Repr

/-- A set of traps, one mark for each. -/
@[ext]
structure TrapSet where
  osc : Bool
  addr : Bool
  stk : Bool
  math : Bool
deriving DecidableEq, Repr

/-- The inputs of one instruction cycle (R210): the vectors whose source makes a request, the levels of the pins INT0 to INT4
(bit x is INTx), and whether loss of the clock is detected. -/
structure CycleInput where
  reqs : List Vec
  pins : BitVec 5
  clockFail : Bool
deriving DecidableEq, Repr

/-- What comes from outside: one cycle's inputs, or a reset of the device between two slots (R240, log 12, log 27). -/
inductive Input where
  | cycle (c : CycleInput)
  | reset
deriving DecidableEq, Repr

/-- What R210 carries from one step of a slot to the next. Fields of the model (log 29). -/
@[ext]
structure Slot where
  /-- `c`: the cycles of the slot's instruction, and 4 more for each entry made in the slot. -/
  cycles : Nat
  /-- `raised`: the traps raised since the events were last applied. -/
  raised : TrapSet
  /-- The slot's instruction was DISI (R123). -/
  disi : Bool
  /-- `masked` of R123: interrupts of priority 1 to 6 are masked at the next arbitration. -/
  masked : Bool
  /-- The registers software wrote in this slot, each with the bits it wrote 0 to (R56, R91). -/
  written : List (Sfr × Word)
deriving DecidableEq, Repr

/-- The state of the machine (R20). -/
@[ext]
structure State where
  /-- The configuration record (00_scope.md R3 to R12), no state of the hardware: a field of the model (log 1). -/
  cfg : Device
  /-- PC (R21). -/
  pc : ProgAddr
  /-- The PC was incremented past the top of the program space, so what it names is unimplemented program memory (R21, U20), whatever
  is implemented at the address it wrapped to. A field of the model (log 36). -/
  pcBeyond : Bool
  /-- W0 to W15 (R22), read and written through `getW` and `setW` only. -/
  w : Vector Word 16
  /-- SPLIM (R23). -/
  splim : Word
  /-- SPLIM_EN (R23). -/
  splimEn : Bool
  /-- SR (R24 to R27). -/
  sr : Word
  /-- CORCON (R28 to R30). -/
  corcon : Word
  /-- INTCON1 (R31 to R33). -/
  intcon1 : Word
  /-- INTCON2 (R34 to R37). -/
  intcon2 : Word
  /-- IFS0 to IFS7 (R38, R39). -/
  ifs : Vector Word 8
  /-- IEC0 to IEC7 (R40, R41). -/
  iec : Vector Word 8
  /-- IPC0 to IPC29 (R42, R43). -/
  ipc : Vector Word 30
  /-- DISICNT (R45). -/
  disicnt : BitVec 14
  /-- RCON.TRAPR, RCON<15> (R46). -/
  trapr : Bool
  /-- OSCCON.CF, OSCCON<3> (R47). -/
  cf : Bool
  /-- PCBUF (R48). -/
  pcbuf : ProgAddr
  /-- SRLBUF (R48). -/
  srlbuf : Byte
  /-- MODE (R49). -/
  mode : Mode
  /-- SKID[3], of the stack error trap (R50). -/
  skidStack : Nat
  /-- SKID[4], of the math error trap (R50). -/
  skidMath : Nat
  /-- The oscillator failure trap is in HARDSTALL (R51). -/
  stallOsc : Bool
  /-- The address error trap is in HARDSTALL (R51). -/
  stallAddr : Bool
  /-- WRINH (R52). -/
  wrinh : Bool
  /-- PINPREV, bit x for INTx (R53). -/
  pinprev : BitVec 5
  /-- Data memory that is no register (R78). -/
  mem : Memory
  /-- Program memory (R70). -/
  prog : ProgMemory
  /-- What one slot carries between its steps; a field of the model (log 29). -/
  slot : Slot
  /-- The inputs still to come; a field of the model (log 12). -/
  inputs : List Input
  /-- The index of the next free value; a field of the model (log 10). -/
  freeCount : Nat
  /-- The index of the free values that unwritten data bytes read as; a field of the model (log 8). -/
  epoch : Nat
deriving DecidableEq, Repr

/-- The reasons a step can stop the machine with a fault. -/
inductive Fault where
  /-- The program counter is odd. Raised by `step` alone; R21 and R80 say it cannot be, and no run reaches it: safe
  (log 18). -/
  | oddProgramCounter
deriving DecidableEq, Repr

/-- The reasons an instruction is refused. -/
inductive Refusal where
  /-- The instruction has no meaning in the model yet. Raised by `exec` alone: safe. -/
  | notModelled (mnemonic : String)
  /-- The word matches no row of the opcode table and CPU_STEP gives it no meaning (R107, U15). Raised by `step`: safe
  (log 17, log 26). -/
  | undecodable
  /-- The second word of a GOTO has a bit above 6 set (U16). Raised by `step`: safe (log 17). -/
  | badGotoSecondWord
  /-- A byte write to SPLIM (R23, U14). Raised by BSET and BCLR on SPLIM: safe (log 16). -/
  | splimByteWrite
  /-- A use of RCON other than a read or the clearing of TRAPR (R46, R243). Raised by a write of RCON whose bit 15 is 1 (MOV, POP,
  PUSH, a CPU_STEP) or of its low byte alone, by BSET and by BCLR of another bit than 15: safe (log 15). -/
  | rconOtherUse
  /-- A byte write to the high byte of OSCCON, which holds no bit of the spec (R47). Raised by BSET and BCLR: safe
  (log 15). -/
  | oscconOtherUse
deriving DecidableEq, Repr

/-- No trap. -/
def TrapSet.none : TrapSet := ⟨false, false, false, false⟩

/-- A slot before its first step: one cycle, nothing raised, nothing written. -/
def Slot.fresh : Slot := ⟨1, .none, false, false, []⟩

/-- The machine right after reset (R58, R240): power-on of the device `Device.generic`, with no program placed, no input to
come, and the values of log 3 to log 8 where the spec gives none. -/
def State.reset : State where
  cfg := Device.generic
  pc := 0
  pcBeyond := false
  w := (Vector.replicate 16 0).set 15 0x0800
  splim := 0
  splimEn := false
  sr := 0
  corcon := 0
  intcon1 := 0
  intcon2 := 0
  ifs := Vector.replicate 8 0
  iec := Vector.replicate 8 0
  ipc := (Vector.replicate 30 0x4444).set 29 0x0044
  disicnt := 0
  trapr := false
  cf := false
  pcbuf := 0
  srlbuf := 0
  mode := .run
  skidStack := 0
  skidMath := 0
  stallOsc := false
  stallAddr := false
  wrinh := false
  pinprev := 0
  mem := []
  prog := []
  slot := Slot.fresh
  inputs := []
  freeCount := 0
  epoch := 0

end Sys2Proof.Machine
end

