-- ==== Sys2Proof/Machine/Implemented.lean ====
section
/-!
DEFINITION. What a device implements: address ranges, register addresses, and the implemented bits of every register
(spec/00_scope.md R4 to R8, spec/10_state.md R24 to R44, R55).
-/

namespace Sys2Proof

/-- `PROG_IMPL` (R6). -/
def Device.progImplemented (d : Device) (a : ProgAddr) : Bool :=
  d.progImpl.any (fun r => decide (r.1 ≤ a.toNat) && decide (a.toNat ≤ r.2))

/-- `DATA_IMPL` (R6). -/
def Device.dataImplemented (d : Device) (a : DataAddr) : Bool :=
  d.dataImpl.any (fun r => decide (r.1 ≤ a.toNat) && decide (a.toNat ≤ r.2))

/-- The register whose word holds the byte at an address, by `SFR_ADDR` (R8, R88). -/
def Device.sfrAt (d : Device) (a : DataAddr) : Option Sfr :=
  (d.sfrAddr.find? (fun e => e.1 == (Machine.evenAddr a).toNat)).map Prod.snd

/-- Whether the byte at an address is the upper byte of its word: the odd address in little-endian order, the even one in
big-endian order (R87). -/
def Device.upperLane (d : Device) (a : DataAddr) : Bool :=
  match d.byteOrder with
  | .little => a.getLsbD 0
  | .big => !a.getLsbD 0

/-- The implemented bits of IFSn and IECn: bit x is vector 16n + x, where that vector exists (R4, R38 to R41). -/
def Device.flagMask (d : Device) (n : Fin 8) : Word :=
  d.implVec.extractLsb' (16 * n.val) 16

/-- A nibble of IPCn: three bits where the vector exists, none where it does not (R42). -/
def Device.ipNibble (d : Device) (v : Nat) : BitVec 4 :=
  if d.implVec.getLsbD v then 0x7 else 0x0

/-- The implemented bits of IPCn (R4, R42, R43). -/
def Device.ipcMask (d : Device) (n : Fin 30) : Word :=
  d.ipNibble (4 * n.val + 3) ++ d.ipNibble (4 * n.val + 2) ++ d.ipNibble (4 * n.val + 1) ++ d.ipNibble (4 * n.val)

/-- The implemented INTxEP bits of INTCON2: one for each external pin (R37). -/
def Device.epMask (d : Device) : Word :=
  BitVec.ofNat 16 (2 ^ d.nExtInt.val - 1)

/-- The implemented bits of a register (R24, R28, R31, R34, R38 to R43, R45 to R47, R55): the bits of RCON and OSCCON are those
the spec describes. -/
def Device.implMask (d : Device) : Sfr → Word
  | .w n => if n = 15 then 0xFFFE else 0xFFFF
  | .splim => 0xFFFE
  | .sr => 0x01FF
  | .corcon => 0x000C
  | .disicnt => 0x3FFF
  | .intcon1 => 0x801E
  | .intcon2 => 0xC000 ||| d.epMask
  | .ifs n => d.flagMask n
  | .iec n => d.flagMask n
  | .ipc n => d.ipcMask n
  | .rcon => 0x8000
  | .osccon => 0x0008

/-- The bits of a register whose value is in a chapter that is not supplied (R46, R47): a read gives a free value there. -/
def Sfr.openMask : Sfr → Word
  | .rcon => 0x7FFF
  | .osccon => 0xFFF7
  | _ => 0

end Sys2Proof
end

