-- ==== Sys2Proof/Machine/Flags.lean ====
section
/-!
DEFINITION. The fields of the status and control registers: SR and its flags, the CPU priority, the trap flags of INTCON1, the
DISI bit, and the flag, enable and priority of an interrupt vector (spec/10_state.md R24 to R44, spec/60_exceptions.md R170).
-/

namespace Sys2Proof.Machine

/-- The trap vector number (R181). -/
def Trap.number : Trap → Nat
  | .oscillatorFail => 1
  | .addressError => 2
  | .stackError => 3
  | .mathError => 4

/-- TrapPri(t) = 15 - t (R182). -/
def Trap.priority (t : Trap) : Nat := 15 - t.number

/-- The INTCON1 bit that is the trap's status flag (R31, R181). -/
def Trap.flagBit : Trap → Nat
  | .oscillatorFail => 1
  | .addressError => 3
  | .stackError => 2
  | .mathError => 4

/-- The set with one more trap. -/
def TrapSet.insert (r : TrapSet) : Trap → TrapSet
  | .oscillatorFail => { r with osc := true }
  | .addressError => { r with addr := true }
  | .stackError => { r with stk := true }
  | .mathError => { r with math := true }

/-- The trap is in the set. -/
def TrapSet.has (r : TrapSet) : Trap → Bool
  | .oscillatorFail => r.osc
  | .addressError => r.addr
  | .stackError => r.stk
  | .mathError => r.math

/-- Both sets together. -/
def TrapSet.union (r q : TrapSet) : TrapSet :=
  ⟨r.osc || q.osc, r.addr || q.addr, r.stk || q.stk, r.math || q.math⟩

/-- Some trap is in the set. -/
def TrapSet.nonempty (r : TrapSet) : Bool :=
  r.osc || r.addr || r.stk || r.math

/-- The traps whose INTCON1 bits a word holds (R31). -/
def TrapSet.ofFlags (x : Word) : TrapSet :=
  ⟨x.getLsbD 1, x.getLsbD 3, x.getLsbD 2, x.getLsbD 4⟩

/-- SRL, the low byte of SR (R27). -/
def State.srl (s : State) : Byte := loByte s.sr

/-- SR with its low byte replaced (R27). -/
def srWithSrl (sr : Word) (l : Byte) : Word := hiByte sr ++ l

/-- SR with IPL<2:0>, SR<7:5>, replaced (R25). -/
def srWithIpl (sr : Word) (p : BitVec 3) : Word := sr.extractLsb' 8 8 ++ p ++ sr.extractLsb' 0 5

/-- IPL<2:0>, SR<7:5> (R25). -/
def State.ipl (s : State) : BitVec 3 := s.sr.extractLsb' 5 3

/-- CORCON.IPL3 (R29). -/
def State.ipl3 (s : State) : Bool := s.corcon.getLsbD 3

/-- CPUPRI, the CPU priority 0 to 15: IPL3 above IPL<2:0> (R170). -/
def State.cpuPri (s : State) : Nat := (s.corcon.extractLsb' 3 1 ++ s.sr.extractLsb' 5 3).toNat

/-- INTCON1.NSTDIS (R32). -/
def State.nstdis (s : State) : Bool := s.intcon1.getLsbD 15

/-- INTCON2.ALTIVT (R35). -/
def State.altivt (s : State) : Bool := s.intcon2.getLsbD 15

/-- INTCON2.DISI (R36). -/
def State.disiBit (s : State) : Bool := s.intcon2.getLsbD 14

/-- A hardware write of INTCON2.DISI (R36). -/
def State.setDisiBit (s : State) (v : Bool) : State := { s with intcon2 := setBit s.intcon2 14 v }

/-- The status flag of a trap in INTCON1 (R33). -/
def State.trapFlag (s : State) (t : Trap) : Bool := s.intcon1.getLsbD t.flagBit

/-- SKID of a soft trap; a hard trap has none (R50). -/
def State.skid (s : State) : Trap → Nat
  | .stackError => s.skidStack
  | .mathError => s.skidMath
  | .oscillatorFail => 0
  | .addressError => 0

/-- IF(v) (R44). -/
def State.ifBit (s : State) (v : Vec) : Bool :=
  (s.ifs[v.val / 16]'(by omega)).getLsbD (v.val % 16)

/-- IE(v) (R44). -/
def State.ieBit (s : State) (v : Vec) : Bool :=
  (s.iec[v.val / 16]'(by omega)).getLsbD (v.val % 16)

/-- IP(v), the user-assigned priority (R44). -/
def State.ipField (s : State) (v : Vec) : BitVec 3 :=
  (s.ipc[v.val / 4]'(by omega)).extractLsb' (4 * (v.val % 4)) 3

/-- The vector is implemented (R4). -/
def State.implemented (s : State) (v : Vec) : Bool := s.cfg.implVec.getLsbD v.val

/-- SR after an inclusive OR with result `r`: N is bit 15 of it, Z says it is 0, every other bit is kept (R157). -/
def srAfterIor (sr r : Word) : Word := setBit (setBit sr 3 (r.getLsbD 15)) 1 (r == 0)

end Sys2Proof.Machine
end

