-- ==== Sys2Proof/Machine/Ops.lean ====
section
/-!
DEFINITION. The operations over registers and memory that every instruction and the interrupt controller share: raising a
trap, W registers, software writes of the special function registers, data-space and program-space accesses, the stack,
device reset, and taking an exception and returning from one.
-/

namespace Sys2Proof.Machine

/-! ## Raising a trap -/

/-- `raise T` by an instruction: T joins the slot's raised traps (R184, R210), and an address error inhibits the rest of the
instruction's data-space writes (R52, R195). The flag itself is set when the slot's events are applied. -/
def State.raise (s : State) (t : Trap) : State :=
  { s with slot := { s.slot with raised := s.slot.raised.insert t }, wrinh := s.wrinh || t == .addressError }

/-- A set of traps raised by a software write of their flags (R199): no write is inhibited (DEDUCED, log 19). -/
def State.raiseAll (s : State) (r : TrapSet) : State :=
  { s with slot := { s.slot with raised := s.slot.raised.union r } }

/-- Raises T when the condition holds. -/
def State.raiseIf (s : State) (c : Bool) (t : Trap) : State :=
  if c then s.raise t else s

/-- The next free word, and the state with the index of free values advanced (log 10). -/
def State.drawWord (s : State) : Word × State :=
  (Config.freeWord s.freeCount, { s with freeCount := s.freeCount + 1 })

/-! ## Working registers -/

/-- W[n]; W15<0> always reads 0 (R22). -/
def State.getW (s : State) (n : WReg) : Word :=
  if n = 15 then s.w[n] &&& 0xFFFE else s.w[n]

/-- Stores W[n] without the stack check; W15<0> ignores the write (R22). -/
def State.putW (s : State) (n : WReg) (v : Word) : State :=
  { s with w := s.w.set n (if n = 15 then v &&& 0xFFFE else v) }

/-- `W[n] <- v` by an instruction: a W15 below 0x0800 raises the stack error trap (R186, decision D18). -/
def State.setW (s : State) (n : WReg) (v : Word) : State :=
  (s.putW n v).raiseIf (decide (n = 15) && decide ((v &&& 0xFFFE).toNat < 0x0800)) .stackError

/-- The checks of an effective address formed from W15: below 0x0800 (R186), above SPLIM once SPLIM_EN is set (R187). -/
def State.checkStackEA (s : State) (ea : DataAddr) : State :=
  s.raiseIf (decide (ea.toNat < 0x0800) || (s.splimEn && decide ((s.splim &&& 0xFFFE).toNat < ea.toNat))) .stackError

/-! ## Special function registers -/

/-- The value a register of R59 holds, unimplemented bits as 0 (R55). -/
def State.sfrValue (s : State) (r : Sfr) : Word :=
  s.cfg.implMask r &&&
    match r with
    | .w n => s.getW n
    | .splim => s.splim
    | .sr => s.sr
    | .corcon => s.corcon
    | .disicnt => s.disicnt.setWidth 16
    | .intcon1 => s.intcon1
    | .intcon2 => s.intcon2
    | .ifs n => s.ifs[n]
    | .iec n => s.iec[n]
    | .ipc n => s.ipc[n]
    | .rcon => setBit 0 15 s.trapr
    | .osccon => setBit 0 3 s.cf

/-- A read of a register: its value, and a free value in the bits of RCON and OSCCON the spec does not describe (R46, R47,
log 15). No register changes on being read (R88, R91). -/
def State.readSfr (s : State) (r : Sfr) : Word × State :=
  if r.openMask = 0 then (s.sfrValue r, s)
  else (blend r.openMask (s.sfrValue r) s.drawWord.1, s.drawWord.2)

/-- The bits of SR a software write changes: not RA, and not IPL<2:0> while NSTDIS = 1 (R25, R26, R57). -/
def State.srWritable (s : State) : Word :=
  if s.nstdis then 0x010F else 0x01EF

/-- The trap flags a write of `v` to INTCON1 takes from 0 to 1: all such bits when `SW_TRAPFLAG_SET_TRAPS`, else none (R57,
R199). -/
def State.trapFlagsSetBy (s : State) (v : Word) : Word :=
  if s.cfg.swTrapflagSetTraps then v &&& ~~~s.intcon1 &&& 0x001E else 0

/-- A software write of INTCON1 (R57): NSTDIS is stored; a trap flag that is 1 is cleared by 0 and kept by 1; a trap flag that
is 0 and is written 1 is set and its trap raised when `SW_TRAPFLAG_SET_TRAPS`, else stays 0. -/
def State.writeIntcon1 (s : State) (v : Word) : State :=
  { s with intcon1 := (v &&& 0x8000) ||| (s.intcon1 &&& v &&& 0x001E) ||| s.trapFlagsSetBy v }.raiseAll
    (TrapSet.ofFlags (s.trapFlagsSetBy v))

/-- A software write of DISICNT (R124, R125): the low 14 bits are stored, and a write of 0 while a DISI is in effect ends it. -/
def State.writeDisicnt (s : State) (v : BitVec 14) : State :=
  { s with disicnt := v, intcon2 := if s.disiBit && v == 0 then setBit s.intcon2 14 false else s.intcon2 }

/-- The per-bit store of `swrite(REG, v)` (R57), register by register. For TRAPR and CF the spec says only that a written 0 clears
them (R243, U4); that a written 1 keeps a set bit and leaves a clear one 0 is a DESIGN CHOICE (R47, log 15). -/
def State.storeSfr (s : State) (r : Sfr) (v : Word) : State :=
  match r with
  | .w n => s.setW n v
  | .splim => { s with splim := v &&& 0xFFFE, splimEn := true }
  | .sr => { s with sr := blend s.srWritable s.sr v }
  | .corcon => { s with corcon := blend 0x0004 s.corcon v &&& (v ||| ~~~0x0008) }
  | .disicnt => s.writeDisicnt (v.extractLsb' 0 14)
  | .intcon1 => s.writeIntcon1 v
  | .intcon2 => { s with intcon2 := blend (0x8000 ||| s.cfg.epMask) s.intcon2 v }
  | .ifs n => { s with ifs := s.ifs.set n (blend (s.cfg.flagMask n) s.ifs[n] v) }
  | .iec n => { s with iec := s.iec.set n (blend (s.cfg.flagMask n) s.iec[n] v) }
  | .ipc n => { s with ipc := s.ipc.set n (blend (s.cfg.ipcMask n) s.ipc[n] v) }
  | .rcon => { s with trapr := s.trapr && v.getLsbD 15 }
  | .osccon => { s with cf := s.cf && v.getLsbD 3 }

/-- Records which bits of a register software wrote 0 to in the slot: the bits that can lose the race of R56 (log 14). -/
def State.noteWrite (s : State) (r : Sfr) (zeros : Word) : State :=
  { s with slot := { s.slot with written := (r, zeros) :: s.slot.written } }

/-- `swrite(REG, v)`, a software write of a whole register (R57). -/
def State.swrite (s : State) (r : Sfr) (v : Word) : State :=
  (s.storeSfr r v).noteWrite r (~~~v)

/-- A software write of one byte of a register: R57 on the byte addressed, the other byte keeping its value. A byte of SPLIM is
refused (R23, U14), so is a byte of RCON but one that writes 0 to TRAPR (R46, R243), and so is the byte of OSCCON that holds no
bit of the spec (R47, log 15). -/
def State.swriteByte (s : State) (r : Sfr) (upper : Bool) (b : Byte) : Except Refusal State :=
  if r = .splim then .error .splimByteWrite
  else if r = .rcon ∧ (upper = false ∨ b.getLsbD 7 = true) then .error .rconOtherUse
  else if r = .osccon ∧ upper = true then .error .oscconOtherUse
  else
    .ok ((s.storeSfr r (withLane upper (s.sfrValue r) b)).noteWrite r
      (laneMask upper &&& ~~~withLane upper (s.sfrValue r) b))

/-- The software clear of RCON.TRAPR alone, its other bits untouched (R46, R243). -/
def State.clearTrapr (s : State) : State := s.storeSfr .rcon 0

/-! ## Data space -/

/-- The byte of data memory at an address that is no register: what the program wrote, or a free value (U2, log 8). A read has no
side effect: every implemented address outside 10_state.md is plain memory (DESIGN CHOICE, R93, log 37). -/
def State.ramByte (s : State) (a : DataAddr) : Byte :=
  (cellRead s.mem a.toNat).getD (Config.ramFill s.epoch a.toNat)

/-- The word of data memory at an even address, in the byte order of the device (R87). -/
def State.ramWord (s : State) (a : DataAddr) : Word :=
  match s.cfg.byteOrder with
  | .little => s.ramByte (a + 1) ++ s.ramByte a
  | .big => s.ramByte a ++ s.ramByte (a + 1)

/-- Stores one byte of data memory. -/
def State.putRamByte (s : State) (a : DataAddr) (b : Byte) : State :=
  { s with mem := cellWrite s.mem a.toNat b }

/-- Stores a word of data memory at an even address, in the byte order of the device (R87). -/
def State.putRamWord (s : State) (a : DataAddr) (v : Word) : State :=
  match s.cfg.byteOrder with
  | .little => (s.putRamByte a (loByte v)).putRamByte (a + 1) (hiByte v)
  | .big => (s.putRamByte a (hiByte v)).putRamByte (a + 1) (loByte v)

/-- `MemRead(a, 2)` (00_scope.md section 5.3): an odd address (R80) or unimplemented data space (R82) raises AddressError and
gives a free value (U18); a register is read as R88 says. -/
def State.readWord (s : State) (a : DataAddr) : Word × State :=
  if a.getLsbD 0 || !s.cfg.dataImplemented a then (s.raise .addressError).drawWord
  else
    match s.cfg.sfrAt a with
    | some r => s.readSfr r
    | none => (s.ramWord a, s)

/-- `MemRead(a, 1)`: a byte access needs no alignment (R80); unimplemented data space raises AddressError (R82). -/
def State.readByte (s : State) (a : DataAddr) : Byte × State :=
  if !s.cfg.dataImplemented a then
    (loByte (s.raise .addressError).drawWord.1, (s.raise .addressError).drawWord.2)
  else
    match s.cfg.sfrAt a with
    | some r => (laneByte (s.cfg.upperLane a) (s.readSfr r).1, (s.readSfr r).2)
    | none => (s.ramByte a, s)

/-- `MemWrite(a, 2, v)`: an odd address raises AddressError (R80) and nothing is written; no write happens once the instruction
has raised an address error (R195); a write to unimplemented data space has no effect (U19); a register is written through
`swrite` (R88). -/
def State.writeWord (s : State) (a : DataAddr) (v : Word) : State :=
  if a.getLsbD 0 then s.raise .addressError
  else if s.wrinh || !s.cfg.dataImplemented a then s
  else
    match s.cfg.sfrAt a with
    | some r => s.swrite r v
    | none => s.putRamWord a v

/-- The word write at `a` is one of RCON that takes place. -/
def State.writesRcon (s : State) (a : DataAddr) : Bool :=
  !a.getLsbD 0 && !s.wrinh && s.cfg.dataImplemented a && s.cfg.sfrAt a == some .rcon

/-- `MemWrite(a, 2, v)` by an instruction: a word of RCON clears TRAPR where its bit 15 is 0 (R243), and one where it is 1 is
refused, since it can only be meant for the bits the spec does not describe (R46, log 15). -/
def State.storeWord (s : State) (a : DataAddr) (v : Word) : Except Refusal State :=
  if s.writesRcon a && v.getLsbD 15 then .error .rconOtherUse else .ok (s.writeWord a v)

/-- `MemWrite(a, 1, b)`: as a word write, on one byte; a byte of a register is written as R57 says. -/
def State.writeByte (s : State) (a : DataAddr) (b : Byte) : Except Refusal State :=
  if s.wrinh || !s.cfg.dataImplemented a then .ok s
  else
    match s.cfg.sfrAt a with
    | some r => s.swriteByte r (s.cfg.upperLane a) b
    | none => .ok (s.putRamByte a b)

/-! ## Program space -/

/-- The word of program memory at an implemented address: what was programmed there, or a free value (log 9). -/
def State.progWord (s : State) (a : ProgAddr) : ProgWord :=
  (cellRead s.prog a.toNat).getD (Config.progFill a.toNat)

/-- The word read from unimplemented program memory: any value (U10, log 9). -/
def State.drawProg (s : State) : ProgWord × State :=
  (Config.freeProg s.freeCount, { s with freeCount := s.freeCount + 1 })

/-- `ProgRead24(a)` (R71); an unimplemented address gives any value (U10). -/
def State.progRead (s : State) (a : ProgAddr) : ProgWord × State :=
  if s.cfg.progImplemented a then (s.progWord a, s) else s.drawProg

/-! ## The program counter -/

/-- The address `n` past `a` lies past the top of the program space, 0x7FFFFE (R21, U20). -/
def pastTop (a : ProgAddr) (n : Nat) : Bool := decide (2 ^ 23 ≤ a.toNat + n)

/-- The PC is loaded with an address. -/
def State.setPc (s : State) (p : ProgAddr) : State := { s with pc := p, pcBeyond := false }

/-- The PC is incremented modulo 2^23; past the top its target is unimplemented program memory (R21, U20, log 36). -/
def State.advanceBy (s : State) (n : Nat) : State :=
  { s with pc := s.pc + BitVec.ofNat 23 n, pcBeyond := pastTop s.pc n }

/-- The PC names implemented program memory: it is no increment past the top, and `PROG_IMPL` holds (R6, R21, R194). -/
def State.pcImplemented (s : State) : Bool := !s.pcBeyond && s.cfg.progImplemented s.pc

/-! ## The stack -/

/-- `push16(v)` (R84): a write at W15 with the checks of R186 and R187, then W15 + 2, whose wrap past 0xFFFF raises the stack
error trap (R188). -/
def State.push16 (s : State) (v : Word) : State :=
  let ea := s.getW 15
  let s1 := (s.checkStackEA ea).writeWord ea v
  let s2 := s1.raiseIf (decide (0xFFFF < (s1.getW 15).toNat + 2)) .stackError
  s2.setW 15 (s2.getW 15 + 2)

/-- `push16(v)` by an instruction: a push onto RCON is refused as any other word write of it is (R46, R243, log 15). -/
def State.pushWord (s : State) (v : Word) : Except Refusal State :=
  if s.writesRcon (s.getW 15) && v.getLsbD 15 then .error .rconOtherUse else .ok (s.push16 v)

/-- `pop16()` (R85): W15 - 2, then a read at W15 with the checks of R186 and R187. -/
def State.pop16 (s : State) : Word × State :=
  let s1 := s.setW 15 (s.getW 15 - 2)
  let ea := s1.getW 15
  (s1.checkStackEA ea).readWord ea

/-! ## Reset -/

/-- The cause of a device reset (R240). -/
inductive ResetCause where
  | powerOnOrExternal
  | software
  | trapConflict
deriving DecidableEq, Repr

/-- The reset value of IPCn: priority 4 in every implemented field (R42, R43, R58). -/
def Device.ipcReset (d : Device) (n : Fin 30) : Word := 0x4444 &&& d.ipcMask n

/-- `DeviceReset(cause)` (R240): every piece of state takes its value of R58; a hard trap conflict sets TRAPR, another cause
keeps it (R243, U4); SPLIM, PINPREV and OSCCON.CF take free values (U1, U3, U4) and data memory holds free values (U2);
program memory, the device and the inputs to come are what they were. -/
def State.deviceReset (s : State) (cause : ResetCause) : State :=
  { State.reset with
    cfg := s.cfg
    ipc := Vector.ofFn (Device.ipcReset s.cfg)
    splim := Config.freeWord s.freeCount &&& 0xFFFE
    trapr := s.trapr || cause == .trapConflict
    cf := Config.freeBit s.freeCount
    pinprev := Config.freePins s.freeCount
    prog := s.prog
    inputs := s.inputs
    freeCount := s.freeCount + 1
    epoch := s.epoch + 1 }

/-! ## Taking an exception and returning from one -/

/-- What an exception is taken for (R204). -/
inductive Source where
  | trap (t : Trap)
  | irq (v : Vec)
deriving DecidableEq, Repr

/-- The table index k of a source: t, or 8 + v (R75). -/
def Source.index : Source → Nat
  | .trap t => t.number
  | .irq v => 8 + v.val

/-- The priority of a source: TrapPri(t), or IP(v) (R204). -/
def State.sourcePri (s : State) : Source → Nat
  | .trap t => t.priority
  | .irq v => (s.ipField v).toNat

/-- VecAddr(alt, k) (R75). -/
def vecAddr (alt : Bool) (k : Nat) : ProgAddr :=
  BitVec.ofNat 23 ((if alt then 0x000104 else 0x000004) + 2 * k)

/-- The word of the exception frame pushed second: SRL, IPL3, PC<22:16> (R86). -/
def frameHigh (srl : Byte) (ipl3 : Bool) (pc : ProgAddr) : Word :=
  srl ++ BitVec.ofBool ipl3 ++ pc.extractLsb' 16 7

/-- The word of the exception frame pushed first: PC<15:0> (R86). -/
def frameLow (pc : ProgAddr) : Word := pc.extractLsb' 0 16

/-- The new CPU priority on entry: an interrupt sets IPL<2:0> to its priority, or to 111 when NSTDIS = 1 (R207); a trap sets IPL3
and IPL<2:0> so that CPUPRI is its priority, whatever NSTDIS is (R208). -/
def State.enterPriority (s : State) (src : Source) (p : Nat) : State :=
  match src with
  | .irq _ => { s with sr := srWithIpl s.sr (if s.nstdis then 7 else BitVec.ofNat 3 p) }
  | .trap _ => { s with sr := srWithIpl s.sr (BitVec.ofNat 3 (p - 8)), corcon := setBit s.corcon 3 true }

/-- Loads the PC from the vector of table index k: ALTIVT read now, bits 23 and 0 of the word dropped (R209). -/
def State.loadVector (s : State) (k : Nat) : State :=
  (s.progRead (vecAddr s.altivt k)).2.setPc ((s.progRead (vecAddr s.altivt k)).1.extractLsb' 1 22 ++ 0#1)

/-- A hard trap that is entered leaves HARDSTALL (R198, R205). -/
def State.leaveStall (s : State) (src : Source) : State :=
  { s with stallOsc := s.stallOsc && src != .trap .oscillatorFail
           stallAddr := s.stallAddr && src != .trap .addressError }

/-- Pushes the exception frame from PCBUF, SRLBUF and IPL3 as they are when the entry begins (R48, R86, R205). -/
def State.pushFrame (s : State) : State :=
  let s1 := { s with pcbuf := s.pc, srlbuf := s.srl }
  (s1.push16 (frameLow s1.pcbuf)).push16 (frameHigh s1.srlbuf s.ipl3 s1.pcbuf)

/-- `Enter(kind, k, p)` (R205): the frame is pushed, the priority changed, the vector loaded, a hard trap leaves HARDSTALL, and
the CPU runs. No flag, enable or priority field changes (R212). -/
def State.enter (s : State) (src : Source) : State :=
  { (((s.pushFrame.enterPriority src (s.sourcePri src)).loadVector src.index).leaveStall src) with mode := .run }

/-- The PC of a popped frame: PC<22:16> from the high word, PC<15:1> from the low word, PC<0> = 0 (R126, R142). -/
def framePc (hi lo : Word) : ProgAddr := hi.extractLsb' 0 7 ++ lo.extractLsb' 1 15 ++ 0#1

/-- The two pops of RETFIE and RETURN: the high word first (R86, R126, R142). -/
def State.popFrame (s : State) : Word × Word × State :=
  let hi := s.pop16
  let lo := hi.2.pop16
  (hi.1, lo.1, lo.2)

/-- The return from an exception (R126): PC, SRL and IPL3 from the frame, hardware writes that NSTDIS does not hold off (R127);
no flag is cleared (R128). -/
def State.returnFromException (s : State) : State :=
  let f := s.popFrame
  { f.2.2 with
    sr := srWithSrl f.2.2.sr (hiByte f.1)
    corcon := setBit f.2.2.corcon 3 (f.1.getLsbD 7) }.setPc (framePc f.1 f.2.1)

/-! ## The frame of an instruction -/

/-- The state in which an instruction begins: one cycle, nothing raised or written yet, no write inhibited. -/
def State.begin (s : State) : State := { s with slot := Slot.fresh, wrinh := false }

/-- The instruction took `c` cycles (R160). -/
def State.took (s : State) (c : Nat) : State := { s with slot := { s.slot with cycles := c } }

/-- The PC advances past a one-word instruction (R21). -/
def State.advance (s : State) : State := s.advanceBy 2

/-- The end of a one-word, one-cycle instruction that writes data space: it completes, or a write of it was refused. -/
def completeStore : Except Refusal State → Host.Outcome State Fault Refusal
  | .ok t => .next (t.advance.took 1)
  | .error r => .refused r

end Sys2Proof.Machine
end

