-- ==== Sys2Proof/Machine/Operands.lean ====
section
/-!
DEFINITION. The operand forms: branch and jump targets, the byte and mask of a bit operand, the zero-extended literal, and
register-indirect addressing (spec/30_encoding.md R103, spec/41_referenced_instructions.md R140, R141, R155 to R158).
-/

namespace Sys2Proof.Machine

/-- The target of `BRA`: pc + 2 + 2 * sext(n), modulo 2^23 (R103, R141). -/
def braTarget (pc : ProgAddr) (n : BitVec 16) : ProgAddr := pc + 2 + (n.signExtend 23 <<< 1)

/-- A jump to a literal target: AddressError when the target is not implemented, and the jump is made all the same (R140,
R141, R193). -/
def State.jump (s : State) (target : ProgAddr) : State :=
  (s.raiseIf (!s.cfg.progImplemented target) .addressError).setPc target

/-- The address of the byte that holds bit `bit4` of the word at `f`: f + (bit4 >> 3) (R155). -/
def bitByteAddr (f : BitVec 13) (bit4 : BitVec 4) : DataAddr :=
  f.setWidth 16 + (bit4.extractLsb' 3 1).setWidth 16

/-- The mask 1 << (bit4 & 7) of a bit in its byte (R155). -/
def bitMask (bit4 : BitVec 4) : Byte := 1#8 <<< (bit4.extractLsb' 0 3).toNat

/-- The bit named is RCON<15>, TRAPR (R46): bit 7 of the upper byte of the register. -/
def State.namesTrapr (s : State) (a : DataAddr) (bit4 : BitVec 4) : Bool :=
  s.cfg.dataImplemented a && s.cfg.sfrAt a == some .rcon && s.cfg.upperLane a && bit4.extractLsb' 0 3 == 7#3

/-- A literal of 10 bits, zero-extended (R103, R157). -/
def lit10Word (k : BitVec 10) : Word := k.setWidth 16

/-- A word read through the pointer W[s]: with s = 15 the checks of R186 and R187 apply to the address (R158). -/
def State.readIndirect (st : State) (s : WReg) : Word × State :=
  (if s = 15 then st.checkStackEA (st.getW s) else st).readWord (st.getW s)

/-- A read-modify-write of one byte by a bit instruction (R155, R156): it is read, changed and written back, with no other effect. On
RCON it is refused: there the one bit instruction the spec allows is the clearing of TRAPR (R46, log 15). -/
def State.modifyByte (s : State) (a : DataAddr) (f : Byte → Byte) : Except Refusal State :=
  if s.cfg.dataImplemented a && s.cfg.sfrAt a == some .rcon then .error .rconOtherUse
  else (s.readByte a).2.writeByte a (f (s.readByte a).1)

end Sys2Proof.Machine
end

