-- ==== Sys2Proof/Machine/BitLogic.lean ====
section
/-!
DEFINITION. BSET, BCLR and IOR (spec/41_referenced_instructions.md R155, R156, R157).
-/

namespace Sys2Proof.Machine

/-- `BSET f, #bit4` (R155): a read-modify-write of the byte that holds the bit. -/
def execBset (f : BitVec 13) (bit4 : BitVec 4) (s : State) : Host.Outcome State Fault Refusal :=
  completeStore (s.begin.modifyByte (bitByteAddr f bit4) (fun b => b ||| bitMask bit4))

/-- `BCLR f, #bit4` (R156). The clearing of RCON<15> is the one bit instruction on RCON that R46 allows (R243). -/
def execBclr (f : BitVec 13) (bit4 : BitVec 4) (s : State) : Host.Outcome State Fault Refusal :=
  completeStore
    (if s.namesTrapr (bitByteAddr f bit4) bit4 then .ok s.begin.clearTrapr
     else s.begin.modifyByte (bitByteAddr f bit4) (fun b => b &&& ~~~bitMask bit4))

/-- `IOR #lit10, Wn` (R157): N and Z from the result; DC, OV, C, RA and IPL are kept. -/
def execIorLit (lit10 : BitVec 10) (n : WReg) (s : State) : Host.Outcome State Fault Refusal :=
  let r := s.getW n ||| lit10Word lit10
  .next ({ s.begin.setW n r with sr := srAfterIor s.sr r }.advance.took 1)

end Sys2Proof.Machine
end

