-- ==== Sys2Proof/Machine/ControlFlow.lean ====
section
/-!
DEFINITION. Jumps, reset, power saving and NOP (spec/41_referenced_instructions.md R140 to R144, R147).
-/

namespace Sys2Proof.Machine

/-- `GOTO Expr` (R140): 2 cycles. -/
def execGoto (target : ProgAddr) (s : State) : Host.Outcome State Fault Refusal :=
  .next ((s.begin.jump target).took 2)

/-- `BRA Expr` (R141): 2 cycles. -/
def execBra (n : BitVec 16) (s : State) : Host.Outcome State Fault Refusal :=
  .next ((s.begin.jump (braTarget s.pc n)).took 2)

/-- `RETURN` (R142): the pops of RETFIE, of which only the PC is kept; the new PC is not checked; 3 cycles. -/
def execReturn (s : State) : Host.Outcome State Fault Refusal :=
  let f := s.begin.popFrame
  .next ((f.2.2.setPc (framePc f.1 f.2.1)).took 3)

/-- `RESET` (R143): DeviceReset(Software); 1 cycle. -/
def execReset (s : State) : Host.Outcome State Fault Refusal :=
  .next ((s.deviceReset .software).took 1)

/-- `PWRSAV #lit1` (R144): the PC advances, then the mode is Sleep for 0 and Idle for 1. -/
def execPwrsav (lit1 : BitVec 1) (s : State) : Host.Outcome State Fault Refusal :=
  .next ({ s.begin.advance with mode := if lit1 = 0 then .sleep else .idle }.took 1)

/-- `NOP` (R147). -/
def execNop (s : State) : Host.Outcome State Fault Refusal :=
  .next (s.begin.advance.took 1)

end Sys2Proof.Machine
end

