-- ==== Sys2Proof/Machine/InterruptControl.lean ====
section
/-!
DEFINITION. The two instructions the chapter defines, DISI and RETFIE (spec/40_interrupt_instructions.md R120, R126).
-/

namespace Sys2Proof.Machine

/-- `DISI #lit14` (R120): DISICNT takes the literal, INTCON2.DISI says whether it is not 0, and the slot is marked as a DISI
slot, whose arbitration is masked and in which DISICNT does not count (R123). -/
def execDisi (lit14 : BitVec 14) (s : State) : Host.Outcome State Fault Refusal :=
  let s1 := { s.begin with disicnt := lit14 }.setDisiBit (lit14 != 0)
  .next ({ s1 with slot := { s1.slot with disi := true } }.advance.took 1)

/-- `RETFIE` (R126 to R129): two pops restore PC, SRL and IPL3; 3 cycles. -/
def execRetfie (s : State) : Host.Outcome State Fault Refusal :=
  .next (s.begin.returnFromException.took 3)

end Sys2Proof.Machine
end

