-- ==== Sys2Proof/Machine/Moves.lean ====
section
/-!
DEFINITION. The four MOV forms (spec/41_referenced_instructions.md R152, R153, R154, R158).
-/

namespace Sys2Proof.Machine

/-- `MOV #lit16, Wnd` (R152). -/
def execMovLit (lit16 : Word) (d : WReg) (s : State) : Host.Outcome State Fault Refusal :=
  .next ((s.begin.setW d lit16).advance.took 1)

/-- `MOV Wns, f` (R153): through `swrite` where `f` is a register. -/
def execMovToFile (n : WReg) (f : DataAddr) (s : State) : Host.Outcome State Fault Refusal :=
  completeStore (s.begin.storeWord f (s.getW n))

/-- `MOV f, Wnd` (R154). -/
def execMovFromFile (f : DataAddr) (d : WReg) (s : State) : Host.Outcome State Fault Refusal :=
  let r := s.begin.readWord f
  .next ((r.2.setW d r.1).advance.took 1)

/-- `MOV [Ws], Wd` (R158): an odd or unimplemented address raises AddressError and Wd takes a free value. -/
def execMovInd (n d : WReg) (s : State) : Host.Outcome State Fault Refusal :=
  let r := s.begin.readIndirect n
  .next ((r.2.setW d r.1).advance.took 1)

end Sys2Proof.Machine
end

