-- ==== Sys2Proof/Machine/StackMoves.lean ====
section
/-!
DEFINITION. PUSH and POP of a data-space word (spec/41_referenced_instructions.md R145, R146).
-/

namespace Sys2Proof.Machine

/-- `PUSH f` (R145): the word at `f` is read, then pushed. -/
def execPush (f : DataAddr) (s : State) : Host.Outcome State Fault Refusal :=
  let r := s.begin.readWord f
  completeStore (r.2.pushWord r.1)

/-- `POP f` (R146): a word is popped, then written at `f`, through `swrite` where `f` is a register. -/
def execPop (f : DataAddr) (s : State) : Host.Outcome State Fault Refusal :=
  let r := s.begin.pop16
  completeStore (r.2.storeWord f r.1)

end Sys2Proof.Machine
end

