-- ==== Sys2Proof/Machine/Dispatch.lean ====
section
/-!
DEFINITION. The meaning of every instruction: one arm for each constructor of Instr, each a call of that instruction's meaning.
-/

namespace Sys2Proof.Machine

-- EXECUTE of R210, for the instruction i
def exec (i : Instr) (s : State) : Host.Outcome State Fault Refusal :=
  match i with
  | .disi lit14 => Sys2Proof.Machine.execDisi lit14 s
  | .retfie => Sys2Proof.Machine.execRetfie s
  | .goto target => Sys2Proof.Machine.execGoto target s
  | .bra n => Sys2Proof.Machine.execBra n s
  | .ret => Sys2Proof.Machine.execReturn s
  | .reset => Sys2Proof.Machine.execReset s
  | .pwrsav lit1 => Sys2Proof.Machine.execPwrsav lit1 s
  | .push f => Sys2Proof.Machine.execPush f s
  | .pop f => Sys2Proof.Machine.execPop f s
  | .nop => Sys2Proof.Machine.execNop s
  | .movLit lit16 d => Sys2Proof.Machine.execMovLit lit16 d s
  | .movToFile n f => Sys2Proof.Machine.execMovToFile n f s
  | .movFromFile f d => Sys2Proof.Machine.execMovFromFile f d s
  | .bset f bit4 => Sys2Proof.Machine.execBset f bit4 s
  | .bclr f bit4 => Sys2Proof.Machine.execBclr f bit4 s
  | .iorLit lit10 n => Sys2Proof.Machine.execIorLit lit10 n s
  | .movInd n d => Sys2Proof.Machine.execMovInd n d s

end Sys2Proof.Machine
end

