-- ==== Sys2Proof/Machine/External.lean ====
section
/-!
DEFINITION. `CPU_STEP` (spec/00_scope.md R9), the parameter that gives a meaning to every instruction outside the opcode table,
and its contract (spec/41_referenced_instructions.md R159, with R148 to R150). A `CPU_STEP` answers with the actions of one
instruction; the machine performs them, and raises the traps that the rules attach to each (log 26).
-/

namespace Sys2Proof.Machine

/-! ## What the spec says of instructions it gives no encoding -/

/-- What every divide instruction does about its divisor: 0 raises MathError (R148, R189); nothing else does. -/
def State.checkDivisor (s : State) (divisor : Word) : State :=
  s.raiseIf (divisor == 0) .mathError

/-- What every bit-manipulation instruction with indirect addressing does about its address: an odd one raises AddressError
(R81, R149, R191). -/
def State.checkIndirectBit (s : State) (ea : DataAddr) : State :=
  s.raiseIf (ea.getLsbD 0) .addressError

/-- The OR of 0xE0 into SRL, by whatever instruction (R150): a software write of the low byte of SR. -/
def State.orIplIntoSrl (s : State) : State :=
  (s.storeSfr .sr (withLane false (s.sfrValue .sr) (loByte (s.sfrValue .sr) ||| 0xE0))).noteWrite .sr
    (0x00FF &&& ~~~withLane false (s.sfrValue .sr) (loByte (s.sfrValue .sr) ||| 0xE0))

/-! ## The answer of a CPU_STEP -/

/-- A data address of an instruction: any address, or one formed from W15 with the exact result of its computation. -/
inductive CpuAddr where
  | plain (a : DataAddr)
  | viaW15 (exact : Nat)
deriving DecidableEq, Repr

/-- The address used: the exact result modulo 2^16 (R188). -/
def CpuAddr.addr : CpuAddr → DataAddr
  | .plain a => a
  | .viaW15 exact => BitVec.ofNat 16 exact

/-- What an instruction outside the opcode table can do (R159): each change it makes and each operand it uses, in order. -/
inductive CpuAction where
  /-- A result goes to a working register. -/
  | setW (n : WReg) (v : Word)
  /-- W15 takes the result of an address computation whose exact value is given (R188). -/
  | moveW15 (exact : Nat)
  /-- DC, N, OV, Z and C take their values from a word laid out as SR. -/
  | setFlags (v : Word)
  /-- SR.RA changes, as the repeat hardware changes it (log 39). -/
  | setRepeat (b : Bool)
  /-- CORCON.PSV is written. -/
  | setPsv (b : Bool)
  /-- A word operand is read. -/
  | readWord (a : CpuAddr)
  /-- A byte operand is read. -/
  | readByte (a : CpuAddr)
  /-- A word is stored. -/
  | writeWord (a : CpuAddr) (v : Word)
  /-- A byte is stored. -/
  | writeByte (a : CpuAddr) (b : Byte)
  /-- An indirect bit operation names this address (R149); its read and its write are actions of their own. -/
  | indirectBit (a : CpuAddr)
  /-- A division by this divisor (R148); its results are actions of their own, with any value when it is 0 (U12). -/
  | divide (divisor : Word)
  /-- The OR of 0xE0 into SRL (R150). -/
  | orIplIntoSrl
  /-- A BRA or GOTO to a literal target, by its bits 22:1 (R193). -/
  | jumpLiteral (target : BitVec 22)
  /-- The PC changes in another way, by its bits 22:1. -/
  | setPc (target : BitVec 22)
deriving DecidableEq, Repr

/-- What a CPU_STEP says of one instruction: whether it has a second word, its cycles beyond the first, and its actions. -/
structure CpuAnswer where
  twoWords : Bool
  extraCycles : Nat
  actions : List CpuAction
deriving DecidableEq, Repr

end Sys2Proof.Machine

/-- Parameter `CPU_STEP` (R9): the meaning of a program word outside the opcode table in the state it executes in, or none for a
word that is no instruction. The spec leaves it to the model's user: no body, so a claim holds whatever it is (DESIGN CHOICE,
safe, log 26). -/
opaque Sys2Proof.Config.cpuStep : Sys2Proof.ProgWord → Sys2Proof.Machine.State → Option Sys2Proof.Machine.CpuAnswer

namespace Sys2Proof.Machine

/-! ## Performing the actions -/

/-- The checks of an address formed from W15: below 0x0800, above SPLIM, past 0xFFFF (R186 to R188). -/
def State.checkAddr (s : State) : CpuAddr → State
  | .plain _ => s
  | .viaW15 exact =>
    (s.checkStackEA (CpuAddr.viaW15 exact).addr).raiseIf (decide (0xFFFF < exact)) .stackError

/-- The action is one of the address errors of the spec (R159 item 1, R190 to R193). -/
def CpuAction.addressError (d : Device) : CpuAction → Bool
  | .readWord a => a.addr.getLsbD 0 || !d.dataImplemented a.addr
  | .readByte a => !d.dataImplemented a.addr
  | .writeWord a _ => a.addr.getLsbD 0
  | .indirectBit a => a.addr.getLsbD 0
  | .jumpLiteral t => !d.progImplemented (t ++ 0#1)
  | .setW _ _ => false
  | .moveW15 _ => false
  | .setFlags _ => false
  | .setRepeat _ => false
  | .setPsv _ => false
  | .writeByte _ _ => false
  | .divide _ => false
  | .orIplIntoSrl => false
  | .setPc _ => false

/-- One action. Every write of a register goes through `swrite` (R159 item 5), and none in data space happens under WRINH
(R195). -/
def State.perform (s : State) : CpuAction → Except Refusal State
  | .setW n v => .ok (s.setW n v)
  | .moveW15 exact => .ok ((s.raiseIf (decide (0xFFFF < exact)) .stackError).setW 15 (BitVec.ofNat 16 exact))
  | .setFlags v => .ok (s.swrite .sr (blend 0x010F s.sr v))
  | .setRepeat b => .ok { s with sr := setBit s.sr 4 b }
  | .setPsv b => .ok (if s.wrinh then s else s.swrite .corcon (setBit s.corcon 2 b))
  | .readWord a => .ok ((s.checkAddr a).readWord a.addr).2
  | .readByte a => .ok ((s.checkAddr a).readByte a.addr).2
  | .writeWord a v => (s.checkAddr a).storeWord a.addr v
  | .writeByte a b => (s.checkAddr a).writeByte a.addr b
  | .indirectBit a => .ok ((s.checkAddr a).checkIndirectBit a.addr)
  | .divide divisor => .ok (s.checkDivisor divisor)
  | .orIplIntoSrl => .ok (if s.wrinh then s else s.orIplIntoSrl)
  | .jumpLiteral t => .ok (s.jump (t ++ 0#1))
  | .setPc t => .ok (s.setPc (t ++ 0#1))

/-- The actions in order; a write that the model refuses refuses the instruction. -/
def State.performAll (s : State) : List CpuAction → Except Refusal State
  | [] => .ok s
  | x :: rest =>
    match s.perform x with
    | .ok t => t.performAll rest
    | .error r => .error r

/-- Some action of the answer is an address error. -/
def CpuAnswer.addressError (a : CpuAnswer) (d : Device) : Bool := a.actions.any (CpuAction.addressError d)

/-- The state in which the actions begin: the PC past the instruction, and every data-space write of the instruction inhibited
when one of its actions is an address error (R195). -/
def State.beginAnswer (s : State) (a : CpuAnswer) : State :=
  { s.begin.advanceBy (if a.twoWords then 4 else 2) with wrinh := a.addressError s.cfg }

/-- An instruction outside the opcode table by the answer of a CPU_STEP: its actions, then its cycles (R9, R159). -/
def State.runAnswer (s : State) (a : CpuAnswer) : Except Refusal State :=
  match (s.beginAnswer a).performAll a.actions with
  | .ok t => .ok (t.took (a.extraCycles + 1))
  | .error r => .error r

/-- A word outside the opcode table (R107): its meaning is CPU_STEP's, and a word without one is refused. So are a GOTO whose
second word is none (U16) and words that end before the instruction does. -/
def executeExternal (e : DecodeError) (word : ProgWord) (s : State) : Host.Outcome State Fault Refusal :=
  match e with
  | .unknownWord =>
    match Config.cpuStep word s with
    | none => .refused .undecodable
    | some a =>
      match s.runAnswer a with
      | .ok t => .next t
      | .error r => .refused r
  | .gotoSecondWord => .refused .badGotoSecondWord
  | .truncated => .refused .undecodable

/-! ## The contract -/

/-- The action uses an address formed from W15. -/
def CpuAction.stackAddr : CpuAction → Option Nat
  | .readWord (.viaW15 exact) => some exact
  | .readByte (.viaW15 exact) => some exact
  | .writeWord (.viaW15 exact) _ => some exact
  | .writeByte (.viaW15 exact) _ => some exact
  | .indirectBit (.viaW15 exact) => some exact
  | _ => none

/-- Software wrote no bit of the register in the slot. -/
def State.Unwritten (s : State) (r : Sfr) : Prop := ∀ z, (r, z) ∉ s.slot.written

/-- The contract R159 on an instruction with answer `a` that takes the machine from `s` to `t`. Item 4, that the instruction
completes, is that there is a `t` at all. -/
structure CpuStepContract (a : CpuAnswer) (s t : State) : Prop where
  /-- Item 1: an address error is raised. -/
  address_raised : a.addressError s.cfg = true → t.slot.raised.addr = true
  /-- Item 1: then the instruction's data-space writes are inhibited: memory and every register but SR's flags stay. -/
  address_inhibits : a.addressError s.cfg = true →
    t.mem = s.mem ∧ (∀ r, r ≠ .sr → (∀ n, r ≠ .w n) → t.sfrValue r = s.sfrValue r) ∧ t.splimEn = s.splimEn
      ∧ t.ipl = s.ipl
  /-- Item 2: an address formed from W15 below 0x0800 or past 0xFFFF raises the stack error. -/
  stack_range : ∀ x ∈ a.actions, ∀ exact, x.stackAddr = some exact →
    (exact % 0x10000 < 0x0800 ∨ 0xFFFF < exact) → t.slot.raised.stk = true
  /-- Item 2: so does one above SPLIM, once SPLIM has been written and where the instruction does not write it. -/
  stack_limit : ∀ x ∈ a.actions, ∀ exact, x.stackAddr = some exact → s.splimEn = true → t.Unwritten .splim →
    (s.splim &&& 0xFFFE).toNat < exact % 0x10000 → t.slot.raised.stk = true
  /-- Item 3: a division by zero raises MathError. -/
  divide_by_zero : CpuAction.divide 0 ∈ a.actions → t.slot.raised.math = true
  /-- Item 5: a register that is not written through `swrite` keeps its value; a write of DISICNT can end a DISI (R125). -/
  unwritten_kept : ∀ r, r ≠ .sr → (∀ n, r ≠ .w n) → t.Unwritten r → (r = .intcon2 → t.Unwritten .disicnt) →
    t.sfrValue r = s.sfrValue r
  /-- Item 5: SR too, but for RA. -/
  sr_kept : t.Unwritten .sr → ∀ b, b ≠ 4 → t.sr.getLsbD b = s.sr.getLsbD b
  /-- Item 5: RA changes by the repeat hardware alone (log 39). -/
  ra_kept : (∀ b, CpuAction.setRepeat b ∉ a.actions) → t.sr.getLsbD 4 = s.sr.getLsbD 4
  /-- Item 5: a write of SR leaves IPL<2:0> alone while NSTDIS = 1 and INTCON1 is not written (R57). -/
  ipl_kept : s.nstdis = true → t.Unwritten .intcon1 → t.ipl = s.ipl
  /-- Item 5: INTCON2.DISI is not set. -/
  disi_not_set : t.disiBit = true → s.disiBit = true
  /-- Item 5: CORCON.IPL3 is not set. -/
  ipl3_not_set : t.ipl3 = true → s.ipl3 = true
  /-- Item 6: the cycles reported, at least 1. -/
  cycles : t.slot.cycles = a.extraCycles + 1
  /-- Item 7: MODE, HARDSTALL and SKID are kept. -/
  mode_kept : t.mode = s.mode
  stall_kept : t.stallOsc = s.stallOsc ∧ t.stallAddr = s.stallAddr
  skid_kept : t.skidStack = s.skidStack ∧ t.skidMath = s.skidMath
  /-- Item 7: SPLIM_EN is never cleared, and set by a write of SPLIM alone. -/
  splimEn_kept : s.splimEn = true → t.splimEn = true
  splimEn_set : t.Unwritten .splim → t.splimEn = s.splimEn
  /-- The device, the program and the inputs to come are no instruction's to change (R54, R92). -/
  outside_kept : t.cfg = s.cfg ∧ t.prog = s.prog ∧ t.inputs = s.inputs

end Sys2Proof.Machine
end

