-- ==== Sys2Proof/Machine/Slot.lean ====
section
/-!
DEFINITION. The steps of an instruction slot (spec/60_exceptions.md R210) around the instruction itself: fetch and EXECUTE,
EVENTS, CONFLICT, COUNT, WAKE and ARBITRATE.
-/

namespace Sys2Proof.Machine

/-! ## 1. What EXECUTE needs -/

/-- No hard trap is waiting for its entry (R51): HARDSTALL is empty. -/
def State.noStall (s : State) : Bool := !s.stallOsc && !s.stallAddr

/-- An instruction executes in this slot: MODE is Run and HARDSTALL is empty (R49, R51, R210). -/
def State.executes (s : State) : Bool := s.mode == .run && s.noStall

/-- The words fetched at PC: the first, and for a GOTO the second at PC + 2 (R71, R101), which past the top of the program space is
unimplemented, so any word (U10, U20). -/
def State.fetch (s : State) : ProgWord × ProgWord × State :=
  let r := s.progRead s.pc
  if isTwoWord r.1 then
    let q := if pastTop s.pc 2 then r.2.drawProg else r.2.progRead (s.pc + 2)
    (r.1, q.1, q.2)
  else (r.1, 0, r.2)

/-- A slot at an unimplemented program address, one past the top of the program space among them: AddressError, PC + 2, nothing
else, 1 cycle (R194, R21). -/
def State.unimplementedSlot (s : State) : State := (s.begin.raise .addressError).advance

/-- EXECUTE at an implemented address: the instruction at PC by its meaning, and a word outside the opcode table by CPU_STEP
(R210 step 1, R107). -/
def State.execute (s : State) : Host.Outcome State Fault Refusal :=
  match decode s.fetch.1 s.fetch.2.1 with
  | .error e => executeExternal e s.fetch.1 s.fetch.2.2
  | .ok i => exec i s.fetch.2.2

/-- Each executed instruction brings a non-zero SKID one down (R197, R210). -/
def State.tickSkid (s : State) : State :=
  { s with skidStack := s.skidStack - 1, skidMath := s.skidMath - 1 }

/-! ## 2. EVENTS -/

/-- The inputs of the next `n` cycles: at most `n`, and none past a reset from outside; a cycle without an input is quiet
(log 12). -/
def takeCycles : Nat → List Input → List CycleInput × List Input
  | 0, ins => ([], ins)
  | _ + 1, [] => ([], [])
  | _ + 1, .reset :: rest => ([], .reset :: rest)
  | n + 1, .cycle c :: rest => (c :: (takeCycles n rest).1, (takeCycles n rest).2)

/-- Software wrote 0 to this bit of this register in the slot, and the device lets the written value stand against a hardware set
(R56, R91, log 14). A written 1 stands too: the bit is then set in either order. -/
def State.raceLost (s : State) (r : Sfr) (b : Nat) : Bool :=
  !s.cfg.hwSetLast && s.slot.written.any (fun p => p.1 == r && p.2.getLsbD b)

/-- A request on vector v sets IF(v), where the vector exists (R175, R210). -/
def State.requestIrq (s : State) (v : Vec) : State :=
  if s.implemented v && !s.raceLost (.ifs ⟨v.val / 16, by omega⟩) (v.val % 16) then
    { s with ifs := s.ifs.set (v.val / 16) (setBit (s.ifs[v.val / 16]'(by omega)) (v.val % 16) true) (by omega) }
  else s

/-- The selected edge on INTx (R222, R223): a rise when INTxEP = 0, a fall when it is 1. -/
def edge (polarity old new : Bool) : Bool :=
  if polarity then old && !new else !old && new

/-- The edge detector of pin INTx, for x below N_EXT_INT (R222). -/
def State.detectEdge (s : State) (pins : BitVec 5) (x : Fin 5) : State :=
  if decide (x.val < s.cfg.nExtInt.val) && edge (s.intcon2.getLsbD x.val) (s.pinprev.getLsbD x.val) (pins.getLsbD x.val) then
    s.requestIrq ⟨x.val, by omega⟩
  else s

/-- The requests and the pins of one cycle (R175, R222): flags are set, and the levels become the previous ones. -/
def State.cycleEvents (s : State) (c : CycleInput) : State :=
  { (List.finRange 5).foldl (fun t x => t.detectEdge c.pins x) (c.reqs.foldl State.requestIrq s) with pinprev := c.pins }

/-- The skid of a soft trap that is raised: any value from 0 to SOFT_TRAP_SKID_MAX (R197, U23). -/
def State.drawSkid (s : State) : Nat := Config.freeSkid s.freeCount % (s.cfg.skidMax + 1)

/-- The status flag of a raised trap is set (R184), whatever the slot's instruction wrote to it: which order R56 leaves is
`requestTrap`'s to say (log 14). -/
def State.setTrapFlag (s : State) (t : Trap) : State := { s with intcon1 := setBit s.intcon1 t.flagBit true }

/-- An oscillator failure sets OSCCON.CF (R184, R196), unless the written value of a race stands (R56). -/
def State.setCf (s : State) : State := { s with cf := s.cf || !s.raceLost .osccon 3 }

/-- What a raised trap changes besides its flag and CF: a soft trap draws its skid (R197), a hard trap joins HARDSTALL (R198). -/
def State.armTrap (s : State) : Trap → State
  | .oscillatorFail => { s with stallOsc := true }
  | .addressError => { s with stallAddr := true }
  | .stackError => { s with skidStack := s.drawSkid, freeCount := s.freeCount + 1 }
  | .mathError => { s with skidMath := s.drawSkid, freeCount := s.freeCount + 1 }

/-- A raised trap takes effect. Where the written 0 of a race stands, the flag is clear, so the request is withdrawn (R199): nothing
is armed that could wait for it (DESIGN CHOICE, log 14). -/
def State.requestTrap (s : State) (t : Trap) : State :=
  if s.raceLost .intcon1 t.flagBit then s else (s.setTrapFlag t).armTrap t

/-- One trap of `raised` takes effect, if it is there (R184, R210). -/
def State.postTrap (s : State) (t : Trap) : State :=
  if s.slot.raised.has t then (if t = .oscillatorFail then s.setCf else s).requestTrap t else s

/-- Every trap of `raised` takes effect (R210 step 2). -/
def State.postTraps (s : State) : State :=
  (((s.postTrap .oscillatorFail).postTrap .addressError).postTrap .stackError).postTrap .mathError

/-- Step 2 of a slot, EVENTS, over `n` cycles: a clock failure raises OscillatorFail when the FSCM is enabled (R196), the raised
traps take effect, then requests and pins set their flags, cycle by cycle (R175, R222). -/
def State.events (s : State) (n : Nat) : State :=
  let ins := takeCycles n s.inputs
  let s1 := { s with inputs := ins.2 }
  let s2 := if ins.1.any CycleInput.clockFail && s.cfg.fscmEnabled then
      { s1 with slot := { s1.slot with raised := s1.slot.raised.insert .oscillatorFail } } else s1
  ins.1.foldl State.cycleEvents s2.postTraps

/-! ## 3. CONFLICT -/

/-- A hard trap conflict: an address error raised in the slot while an oscillator failure is pending or being processed
(R201, decision D12). -/
def State.conflict (s : State) : Bool :=
  s.slot.raised.addr && (s.trapFlag .oscillatorFail || decide (14 ≤ s.cpuPri))

/-! ## 4. COUNT -/

/-- Step 4, the DISICNT count over `n` cycles (R123): a DISI slot is masked and does not count; in another slot the arbitration is
masked when a DISI is in effect and its count covers every cycle, and the count falls by `n`, not below 0, ending the DISI
at 0. -/
def State.count (s : State) (n : Nat) : State :=
  if s.slot.disi then { s with slot := { s.slot with masked := true } }
  else
    { s with
      slot := { s.slot with masked := s.disiBit && decide (n ≤ s.disicnt.toNat) }
      disicnt := BitVec.ofNat 14 (s.disicnt.toNat - n)
      intcon2 := if s.disicnt.toNat ≤ n then setBit s.intcon2 14 false else s.intcon2 }

/-! ## 5. WAKE -/

/-- Some implemented source is flagged and enabled with priority 1 or higher (R219). -/
def State.wakeRequest (s : State) : Bool :=
  (List.finRange 118).any (fun v => s.ifBit v && s.ieBit v && s.implemented v && decide (1 ≤ (s.ipField v).toNat))

/-- Step 5, WAKE: a wake-up request, or a trap raised in the slot when `TRAP_WAKES`, ends Sleep and Idle (R219). -/
def State.wake (s : State) : State :=
  if s.mode != .run && (s.wakeRequest || (s.slot.raised.nonempty && s.cfg.trapWakes)) then { s with mode := .run } else s

/-! ## 6. ARBITRATE -/

/-- Elig(v) (R179). -/
def State.eligible (s : State) (v : Vec) : Bool :=
  s.ifBit v && s.ieBit v && s.implemented v && decide (s.cpuPri < (s.ipField v).toNat)
    && !(s.slot.masked && decide ((s.ipField v).toNat ≤ 6))

/-- Of the eligible vectors of a list, one of the highest IP; of those, the first (R180). -/
def State.bestOf (s : State) : List Vec → Option Vec
  | [] => none
  | v :: rest =>
    match s.bestOf rest with
    | none => if s.eligible v then some v else none
    | some u => if s.eligible v && decide ((s.ipField u).toNat ≤ (s.ipField v).toNat) then some v else some u

/-- The winner among the interrupt sources: the highest IP, then the lowest vector number (R180). -/
def State.winner (s : State) : Option Vec := s.bestOf (List.finRange 118)

/-- A trap is a candidate: requested, of a priority above CPUPRI, and, when soft, past its skid (R204). -/
def State.trapCandidate (s : State) (t : Trap) : Bool :=
  s.trapFlag t && decide (s.skid t = 0) && decide (s.cpuPri < t.priority)

/-- The one source to enter, if any (R204): the candidate trap of highest priority, else the winning interrupt. -/
def State.select (s : State) : Option Source :=
  if s.trapCandidate .oscillatorFail then some (.trap .oscillatorFail)
  else if s.trapCandidate .addressError then some (.trap .addressError)
  else if s.trapCandidate .stackError then some (.trap .stackError)
  else if s.trapCandidate .mathError then some (.trap .mathError)
  else s.winner.map .irq

/-- The slot's marks as an entry begins: nothing raised or written in it yet, no write inhibited (R195, R205). -/
def State.beginEntry (s : State) : State :=
  { s with wrinh := false
           slot := { s.slot with raised := .none, disi := false, written := [], cycles := s.slot.cycles + 4 } }

/-- An entry with its 4 cycles: the exception is taken, the events of its cycles are applied, and DISICNT counts them (R205, R210,
log 24). -/
def State.enterSlot (s : State) (src : Source) : State :=
  (((s.beginEntry.enter src).events 4).count 4)

/-- A hard trap stalls the CPU and can be entered: it was raised while CPUPRI was below its priority (R198). -/
def State.hardTrapWaits (s : State) : Bool :=
  (s.stallOsc && s.trapCandidate .oscillatorFail) || (s.stallAddr && s.trapCandidate .addressError)

/-- Step 6, ARBITRATE: the selected source is entered; when `PREEMPT_BEFORE_FIRST`, once more for each further source that is
then selected (R204, R210, decision D17). A hard trap that the cycles of an entry raise is entered in this same slot whatever
`PREEMPT_BEFORE_FIRST` is, since no instruction can run before it (R51, R198, log 24). Each entry raises CPUPRI, so 16 rounds are
more than any slot needs (log 25). -/
def State.arbitrate : Nat → State → State
  | 0, s => s
  | n + 1, s =>
    match s.select with
    | none => s
    | some src =>
      if s.cfg.preemptBeforeFirst || (s.enterSlot src).hardTrapWaits then State.arbitrate n (s.enterSlot src)
      else s.enterSlot src

/-- Steps 2 to 6 of a slot, after EXECUTE (R210). -/
def State.endSlot (s : State) : State :=
  let s2 := s.events s.slot.cycles
  if s2.conflict then s2.deviceReset .trapConflict
  else
    let s5 : State := { (s2.count s.slot.cycles).wake with wrinh := false }
    if s5.mode = .run then s5.arbitrate 16 else s5

end Sys2Proof.Machine
end

