-- ==== Sys2Proof/Machine/Step.lean ====
section
/-!
DEFINITION. One step of the machine: one instruction slot (spec/60_exceptions.md R210), or a reset from outside.
-/

namespace Sys2Proof.Machine

/-- One slot. A reset from outside comes first and is the whole step (log 27). A sleeping or stalled CPU executes nothing for one
cycle; unimplemented program memory is R194; else the instruction at PC is fetched, decoded and executed. Steps 2 to 6 of
R210 follow. -/
def step (s : State) : Host.Outcome State Fault Refusal :=
  match s.inputs with
  | .reset :: rest => .next ({ s with inputs := rest }.deviceReset .powerOnOrExternal)
  | _ =>
    if s.executes = false then .next s.begin.endSlot
    else if s.pc.getLsbD 0 then .fault .oddProgramCounter
    else if s.pcImplemented = false then .next s.unimplementedSlot.endSlot
    else
      match s.execute with
      | .next t => .next t.tickSkid.endSlot
      | .fault f => .fault f
      | .refused r => .refused r

/-- Program memory with a word programmed at an address: a load from outside the machine (log 13). -/
def State.program (s : State) (a : ProgAddr) (w : ProgWord) : State :=
  { s with prog := cellWrite s.prog a.toNat w }

/-- `s` with the instruction whose bits are `w` programmed at PC, its second word at PC + 2. -/
def State.withFetchWord (s : State) (nbits w : Nat) : State :=
  (s.program s.pc (tableWords nbits w).1).program (s.pc + 2) (tableWords nbits w).2

end Sys2Proof.Machine
end

