-- ==== Sys2Proof/Safety.lean ====
section
/-!
DEFINITION. The terms claims are stated in: the invariant of the machine, the stuck state, where ordinary data memory lies, and
what it means that a part of the state is unchanged.
-/

namespace Sys2Proof.Machine

/-! ## The invariant -/

/-- What every operation of the machine keeps, inside a slot too: the PC, W15 and SPLIM are even (R21 to R23), no unimplemented
bit of a register is set (R55), INTCON2.DISI is 1 only while DISICNT is not 0 (R122), a skid stays in its range (R197), and both
memories have their canonical form. -/
structure State.WellKept (s : State) : Prop where
  pc_even : s.pc.getLsbD 0 = false
  w15_even : s.w[15].getLsbD 0 = false
  splim_even : s.splim.getLsbD 0 = false
  sr_impl : s.sr &&& ~~~s.cfg.implMask .sr = 0
  corcon_impl : s.corcon &&& ~~~s.cfg.implMask .corcon = 0
  intcon1_impl : s.intcon1 &&& ~~~s.cfg.implMask .intcon1 = 0
  intcon2_impl : s.intcon2 &&& ~~~s.cfg.implMask .intcon2 = 0
  ifs_impl : ∀ n : Fin 8, s.ifs[n] &&& ~~~s.cfg.implMask (.ifs n) = 0
  iec_impl : ∀ n : Fin 8, s.iec[n] &&& ~~~s.cfg.implMask (.iec n) = 0
  ipc_impl : ∀ n : Fin 30, s.ipc[n] &&& ~~~s.cfg.implMask (.ipc n) = 0
  disi_counts : s.disiBit = true → s.disicnt ≠ 0
  skidStack_le : s.skidStack ≤ s.cfg.skidMax
  skidMath_le : s.skidMath ≤ s.cfg.skidMax
  mem_wf : Memory.wf s.mem = true
  prog_wf : ProgMemory.wf s.prog = true

/-- The invariant between two slots: all of `WellKept`, and no write is inhibited (R52). -/
structure State.Inv (s : State) : Prop where
  kept : s.WellKept
  wrinh_off : s.wrinh = false

/-! ## Runs -/

/-- A hard trap waits that cannot be entered: its priority is not above CPUPRI (R202). -/
def State.Stuck (s : State) : Prop :=
  (s.stallAddr = true ∧ 13 ≤ s.cpuPri) ∨ (s.stallOsc = true ∧ 14 ≤ s.cpuPri)

/-- No reset comes from outside any more. -/
def State.NoOutsideReset (s : State) : Prop := Input.reset ∉ s.inputs

/-- The next input is no reset from outside: the step is an instruction slot. -/
def State.SlotNext (s : State) : Prop := s.inputs.head? ≠ some .reset

/-- The step executes the instruction at PC (R210 step 1): MODE is Run, nothing is stalled, the PC is even and implemented. -/
structure State.Fetches (s : State) : Prop where
  slot : s.SlotNext
  executes : s.executes = true
  pc_even : s.pc.getLsbD 0 = false
  implemented : s.pcImplemented = true

/-- The words of the instruction at PC, where they are implemented: the second is read for a GOTO alone (R101). -/
def State.wordsAtPc (s : State) : ProgWord × ProgWord :=
  (s.progWord s.pc, if isTwoWord (s.progWord s.pc) then s.progWord (s.pc + 2) else 0)

/-! ## Places in data space -/

/-- The word at `a` is ordinary data memory: aligned, implemented, no register. -/
structure State.RamAt (s : State) (a : DataAddr) : Prop where
  even : a.getLsbD 0 = false
  implemented : s.cfg.dataImplemented a = true
  noSfr : s.cfg.sfrAt a = none

/-- The word at `a` is the register `r`: aligned, implemented, at the register's address. -/
structure State.SfrIs (s : State) (a : DataAddr) (r : Sfr) : Prop where
  even : a.getLsbD 0 = false
  implemented : s.cfg.dataImplemented a = true
  here : s.cfg.sfrAt a = some r

/-- The stack pointer. -/
def State.sp (s : State) : DataAddr := s.getW 15

/-- The address `ea` formed from W15 raises the stack error trap (R186, R187). -/
def State.stackFaulty (s : State) (ea : DataAddr) : Bool :=
  decide (ea.toNat < 0x0800) || (s.splimEn && decide ((s.splim &&& 0xFFFE).toNat < ea.toNat))

/-- The two words an exception entry pushes lie in ordinary data memory. -/
structure State.FrameInRam (s : State) : Prop where
  low : s.RamAt s.sp
  high : s.RamAt (s.sp + 2)

/-! ## What stays as it was -/

/-- Nothing but the stack error trap is raised, and that one exactly when `b`. -/
def OnlyStackError (r : TrapSet) (b : Bool) : Prop := r = ⟨false, false, b, false⟩

/-- Nothing but the address error trap is raised, and that one exactly when `b`. -/
def OnlyAddressError (r : TrapSet) (b : Bool) : Prop := r = ⟨false, b, false, false⟩

/-- Every working register but `d` is unchanged. -/
def SameOtherW (d : WReg) (s t : State) : Prop := ∀ n, n ≠ d → t.getW n = s.getW n

/-- Every working register is unchanged. -/
def SameW (s t : State) : Prop := ∀ n, t.getW n = s.getW n

/-- Every byte of data memory reads as before. -/
def SameBytes (s t : State) : Prop := ∀ a, t.ramByte a = s.ramByte a

/-- Every byte of data memory outside the word at `a` reads as before. -/
def SameBytesBut (a : DataAddr) (s t : State) : Prop := ∀ c, c ≠ a → c ≠ a + 1 → t.ramByte c = s.ramByte c

/-- SR, all flags and IPL<2:0> among them, and CORCON are unchanged. -/
structure SameStatus (s t : State) : Prop where
  sr : t.sr = s.sr
  corcon : t.corcon = s.corcon

/-- The control registers of the controller and its counter are unchanged. -/
structure SameControl (s t : State) : Prop where
  intcon1 : t.intcon1 = s.intcon1
  intcon2 : t.intcon2 = s.intcon2
  disicnt : t.disicnt = s.disicnt

/-- Every interrupt flag, enable and priority is unchanged. -/
structure SameSources (s t : State) : Prop where
  ifs : t.ifs = s.ifs
  iec : t.iec = s.iec
  ipc : t.ipc = s.ipc

/-- The stack limit, TRAPR, CF and the hidden state but MODE are unchanged. -/
structure SameHidden (s t : State) : Prop where
  splim : t.splim = s.splim
  splimEn : t.splimEn = s.splimEn
  trapr : t.trapr = s.trapr
  cf : t.cf = s.cf
  pcbuf : t.pcbuf = s.pcbuf
  srlbuf : t.srlbuf = s.srlbuf
  skidStack : t.skidStack = s.skidStack
  skidMath : t.skidMath = s.skidMath
  stallOsc : t.stallOsc = s.stallOsc
  stallAddr : t.stallAddr = s.stallAddr
  pinprev : t.pinprev = s.pinprev

/-- The device, program memory, the inputs to come and the epoch of data memory are unchanged. -/
structure SameOutside (s t : State) : Prop where
  cfg : t.cfg = s.cfg
  prog : t.prog = s.prog
  inputs : t.inputs = s.inputs
  epoch : t.epoch = s.epoch

/-- What no plain data instruction touches: the controller, the sources, the hidden state, MODE and the outside. -/
structure SameSystem (s t : State) : Prop where
  control : SameControl s t
  sources : SameSources s t
  hidden : SameHidden s t
  mode : t.mode = s.mode
  outside : SameOutside s t

end Sys2Proof.Machine
end

