-- ==== Sys2Proof/Certificates/Slice0/Obligations.lean ====
section
/-!
DEFINITION. The statements for the provers, from the numbered rules of spec/. Each holds for every device record `cfg`, so for both
values of every OPEN parameter, and for every free value.
-/

open Sys2Proof Sys2Proof.Machine

/-! ## Encoding -/

/-- R101 to R105: encoding a well-formed instruction and decoding the words, whatever follows them, gives it back.
The encodings are the spec's general knowledge (log 28). -/
def Obligations.EncodeThenDecodeGivesInstruction : Prop :=
  ∀ (i : Instr) (rest : List ProgWord), i.wellFormed = true → decodeWords (encode i ++ rest) = .ok (i, rest)

/-- R102 to R105: a decoded instruction is well-formed, and its encoding is exactly the words it was decoded from; NOP alone
ignores bits, and only a word whose top byte is 0 is a NOP (R107). No bit of a word is dropped, and reserved words decode to
nothing. -/
def Obligations.DecodeThenEncodeGivesWords : Prop :=
  ∀ (w1 w2 : ProgWord) (i : Instr), decode w1 w2 = .ok i →
    i.wellFormed = true ∧ (i ≠ .nop → encode i = if isTwoWord w1 then [w1, w2] else [w1]) ∧
    (i = .nop → w1.extractLsb' 16 8 = 0#8)

/-- 30_encoding.md R104, R105 and section 6: example words of the spec decode to the instructions it names. -/
def Obligations.SampleWordsDecode : Prop :=
  decodeWords [0xFC0003#24] = .ok (.disi 3, []) ∧ decodeWords [0x064000#24] = .ok (.retfie, []) ∧
  decodeWords [0x042346#24, 0x000001#24] = .ok (.goto 0x012346, []) ∧ decodeWords [0x370002#24] = .ok (.bra 2, []) ∧
  decodeWords [0xFE4001#24] = .ok (.pwrsav 1, []) ∧ decodeWords [0xF80042#24] = .ok (.push 0x0042, []) ∧
  decodeWords [0x880210#24] = .ok (.movToFile 0 0x0042, []) ∧ decodeWords [0xA8E081#24] = .ok (.bset 0x0080 15, []) ∧
  decodeWords [0xB30E00#24] = .ok (.iorLit 0xE0 0, []) ∧ decodeWords [0x780011#24] = .ok (.movInd 1 0, [])

/-! ## A step runs the decoded instruction -/

/-- R210: where the machine fetches and the words at PC are implemented and decode to an instruction, the step is that
instruction's meaning at that state, then the skid tick, which takes SKID[3] and SKID[4] one down where they are not 0 and changes
nothing else (R197), and steps 2 to 6 of the slot; a refusal of the meaning is the step's.
That a second word is implemented, and not past the top of the program space, is read as a premise: an unimplemented one is any word
(log 9). -/
def Obligations.StepRunsDecodedInstruction : Prop :=
  ∀ (s : State) (i : Instr), s.Fetches →
    (isTwoWord (s.progWord s.pc) = true → s.cfg.progImplemented (s.pc + 2) = true ∧ s.pc ≠ 0x7FFFFE) →
    decode s.wordsAtPc.1 s.wordsAtPc.2 = .ok i →
    (∀ t, exec i s = .next t → step s = .next t.tickSkid.endSlot ∧
      t.tickSkid = { t with skidStack := t.skidStack - 1, skidMath := t.skidMath - 1 }) ∧
    (∀ r, exec i s = .refused r → step s = .refused r)

/-- R107, U15, U16, R9: a word that matches no row of the opcode table does what CPU_STEP answers for it, and is refused when CPU_STEP
gives it no meaning, or answers with a write that is refused; a GOTO whose second word has a bit above 6 set is refused. None of
them is a NOP or a trap.
Refusing is the spec's decision D29 (log 17); how a CPU_STEP answers is the model's (log 26). -/
def Obligations.StepRefusesUndecodableWord : Prop :=
  ∀ s : State, s.Fetches →
    (isTwoWord (s.progWord s.pc) = true → s.cfg.progImplemented (s.pc + 2) = true ∧ s.pc ≠ 0x7FFFFE) →
    (decode s.wordsAtPc.1 s.wordsAtPc.2 = .error .unknownWord →
      step s = match Config.cpuStep (s.progWord s.pc) s with
        | none => .refused .undecodable
        | some a => match s.runAnswer a with
          | .ok t => .next t.tickSkid.endSlot
          | .error r => .refused r) ∧
    (decode s.wordsAtPc.1 s.wordsAtPc.2 = .error .gotoSecondWord → step s = .refused .badGotoSecondWord)

/-- R194, R21: a slot at unimplemented program memory, or after an increment of the PC past the top of the program space, raises
AddressError, advances the PC by 2, takes 1 cycle and changes nothing else before the events of the slot.
What such a slot does is the spec's decision D27; that it is the next slot after such an increment is R21 and U20, and the mark that
says so the model's (log 36). -/
def Obligations.UnimplementedPcRaisesAddressError : Prop :=
  ∀ s : State, s.SlotNext → s.executes = true → s.pc.getLsbD 0 = false →
    (s.cfg.progImplemented s.pc = false ∨ s.pcBeyond = true) →
    ∃ u, step s = .next u.endSlot ∧ u.pc = s.pc + 2 ∧ u.pcBeyond = decide (s.pc = 0x7FFFFE) ∧
      u.slot.cycles = 1 ∧ OnlyAddressError u.slot.raised true ∧
      SameW s u ∧ SameStatus s u ∧ SameSystem s u ∧ SameBytes s u

/-! ## The invariant -/

/-- The invariant of the machine is kept by every step from every state that has it.
The canonical form of both memories is the model's (log 8, log 9). -/
def Obligations.StepKeepsInvariant : Prop :=
  ∀ s t : State, s.Inv → step s = .next t → t.Inv

/-- The invariant holds right after reset.
The values the spec does not state are the model's (log 1, log 4 to log 8). -/
def Obligations.ResetHasInvariant : Prop := State.reset.Inv

/-- R54, R92: no step changes the device record or program memory.
That program memory is fixed is the spec's decision D4. -/
def Obligations.StepKeepsDeviceAndProgram : Prop :=
  ∀ s t : State, step s = .next t → t.cfg = s.cfg ∧ t.prog = s.prog

/-- R202: once a hard trap waits that cannot be entered, every further step without a reset from outside is a next state, the CPU
executes no instruction in it, and it is stuck as before.
Being stuck for good is the spec's decision D31. -/
def Obligations.StuckCpuStaysStuck : Prop :=
  ∀ s : State, s.Stuck → s.NoOutsideReset →
    s.executes = false ∧ ∃ t, step s = .next t ∧ t.Stuck ∧ t.NoOutsideReset

/-! ## DISI and RETFIE -/

/-- R120: what DISI does, its encoding included; the count of its own slot is masked and leaves DISICNT alone (R123).
That the operand is loaded, and the masking of its own slot, are the spec's general knowledge and its decisions D14 and D34. -/
def Obligations.DisiLoadsCounterAndMasks : Prop :=
  ∀ (k : BitVec 14) (s : State), decodeWords [0x3F0#10 ++ k] = .ok (.disi k, []) ∧
    ∃ t, exec (.disi k) s = .next t ∧ t.disicnt = k ∧ t.disiBit = (k != 0) ∧
      (∀ b, b ≠ 14 → t.intcon2.getLsbD b = s.intcon2.getLsbD b) ∧ t.intcon1 = s.intcon1 ∧
      (∀ n, (t.count n).slot.masked = true ∧ (t.count n).disicnt = k) ∧
      t.pc = s.pc + 2 ∧ t.slot.cycles = 1 ∧ t.slot.raised = .none ∧ SameW s t ∧ SameStatus s t ∧ SameSources s t ∧
      SameHidden s t ∧ t.mode = s.mode ∧ SameOutside s t ∧ SameBytes s t

/-- R123: the DISICNT count of a slot of n cycles.
The mask's formula is the spec's inference (decision D14). -/
def Obligations.DisicntCountsCycles : Prop :=
  ∀ (s : State) (n : Nat),
    (s.slot.disi = true → (s.count n).slot.masked = true ∧ (s.count n).disicnt = s.disicnt ∧ (s.count n).intcon2 = s.intcon2) ∧
    (s.slot.disi = false →
      (s.count n).slot.masked = (s.disiBit && decide (n ≤ s.disicnt.toNat)) ∧
      (s.count n).disicnt.toNat = s.disicnt.toNat - n ∧
      (s.count n).disiBit = (s.disiBit && decide (n < s.disicnt.toNat)) ∧
      ∀ b, b ≠ 14 → (s.count n).intcon2.getLsbD b = s.intcon2.getLsbD b)

/-- R126, R128: RETFIE completes from every state in 3 cycles, takes W15 down by 4 and changes nothing but W15, SRL, IPL3 and PC;
where the two words below W15 are ordinary memory, PC, SRL and IPL3 are the frame's and only the stack error trap can be raised.
The layout of the frame is the spec's general knowledge (R86). -/
def Obligations.RetfieRestoresFromFrame : Prop :=
  decodeWords [0x064000#24] = .ok (.retfie, []) ∧
  ∀ s : State, s.sp.getLsbD 0 = false ∧ ∃ t, exec .retfie s = .next t ∧ t.getW 15 = s.sp - 4 ∧ SameOtherW 15 s t ∧
    hiByte t.sr = hiByte s.sr ∧ (∀ b, b ≠ 3 → t.corcon.getLsbD b = s.corcon.getLsbD b) ∧ t.slot.cycles = 3 ∧
    SameSystem s t ∧ SameBytes s t ∧
    (s.RamAt (s.sp - 2) → s.RamAt (s.sp - 4) →
      t.pc = (s.ramWord (s.sp - 2)).extractLsb' 0 7 ++ (s.ramWord (s.sp - 4)).extractLsb' 1 15 ++ 0#1 ∧
      loByte t.sr = hiByte (s.ramWord (s.sp - 2)) ∧ t.corcon.getLsbD 3 = (s.ramWord (s.sp - 2)).getLsbD 7 ∧
      OnlyStackError t.slot.raised (s.stackFaulty (s.sp - 2) || s.stackFaulty (s.sp - 4)))

/-- R217, R126: RETFIE undoes an entry. Where the frame lies in ordinary memory, RETFIE right after the entry of any source
restores PC, SR, CORCON and every W register, and changes no interrupt flag, enable or priority, no control register of the
controller, and no byte outside the frame. -/
def Obligations.EntryThenRetfieRestores : Prop :=
  ∀ (s : State) (src : Source), s.FrameInRam → s.wrinh = false → s.pc.getLsbD 0 = false →
    ∃ t, exec .retfie (s.enter src) = .next t ∧ t.pc = s.pc ∧ t.sr = s.sr ∧ t.corcon = s.corcon ∧ SameW s t ∧
      SameControl s t ∧ SameSources s t ∧
      ∀ a, a ≠ s.sp → a ≠ s.sp + 1 → a ≠ s.sp + 2 → a ≠ s.sp + 3 → t.ramByte a = s.ramByte a

/-! ## Control flow -/

/-- R140, R193: GOTO goes to its target in 2 cycles, raising AddressError when the target is not implemented.
The encoding and the operation are the spec's general knowledge (log 28). -/
def Obligations.GotoJumpsAndChecksTarget : Prop :=
  ∀ (hi : BitVec 7) (lo : BitVec 15) (s : State),
    decodeWords [0x04#8 ++ lo ++ 0#1, 0#17 ++ hi] = .ok (.goto (hi ++ lo ++ 0#1), []) ∧
    ∀ target, ∃ t, exec (.goto target) s = .next t ∧ t.pc = target ∧ t.slot.cycles = 2 ∧
      OnlyAddressError t.slot.raised (!s.cfg.progImplemented target) ∧
      SameW s t ∧ SameStatus s t ∧ SameSystem s t ∧ SameBytes s t

/-- R141, R193: BRA goes to pc + 2 + 2 * sext(n) modulo 2^23 in 2 cycles, raising AddressError when that is not implemented.
The encoding, the operation and the cycles are the spec's general knowledge (log 28), and the width 23 of the PC its decision
D21. -/
def Obligations.BraJumpsRelative : Prop :=
  ∀ (n : BitVec 16) (s : State), decodeWords [0x37#8 ++ n] = .ok (.bra n, []) ∧
    ∃ t, exec (.bra n) s = .next t ∧ t.pc = BitVec.ofInt 23 (s.pc.toNat + 2 + 2 * n.toInt) ∧ t.slot.cycles = 2 ∧
      OnlyAddressError t.slot.raised (!s.cfg.progImplemented t.pc) ∧
      SameW s t ∧ SameStatus s t ∧ SameSystem s t ∧ SameBytes s t

/-- R142: RETURN completes from every state in 3 cycles, takes W15 down by 4 and leaves SR and CORCON alone; where the two words
below W15 are ordinary memory, the PC is the frame's, unchecked, and only the stack error trap can be raised.
The encoding and the operation are the spec's general knowledge (log 28). -/
def Obligations.ReturnPopsPc : Prop :=
  decodeWords [0x060000#24] = .ok (.ret, []) ∧
  ∀ s : State, ∃ t, exec .ret s = .next t ∧ t.getW 15 = s.sp - 4 ∧ SameOtherW 15 s t ∧ SameStatus s t ∧
    t.slot.cycles = 3 ∧ SameSystem s t ∧ SameBytes s t ∧
    (s.RamAt (s.sp - 2) → s.RamAt (s.sp - 4) →
      t.pc = (s.ramWord (s.sp - 2)).extractLsb' 0 7 ++ (s.ramWord (s.sp - 4)).extractLsb' 1 15 ++ 0#1 ∧
      OnlyStackError t.slot.raised (s.stackFaulty (s.sp - 2) || s.stackFaulty (s.sp - 4)))

/-- The registers of 10_state.md after a reset of any cause (R58, R240): the values the spec states; IPCn holds priority 4 in every
implemented field. TRAPR is set by a hard trap conflict and kept by another cause (R243). A step at a reset from outside is the
device reset of cause PowerOnOrExternal and nothing else (when it lands is log 27).
That another cause keeps TRAPR is the model's reading of U4 (log 5), and 0 in W0 to W14 the spec's reading of R22. -/
def Obligations.DeviceResetClearsRegisters : Prop :=
  (∀ (s : State) (rest : List Input), s.inputs = .reset :: rest →
    step s = .next ({ s with inputs := rest }.deviceReset .powerOnOrExternal)) ∧
  ∀ (s : State) (c : ResetCause) (t : State), t = s.deviceReset c →
    t.inputs = s.inputs ∧ t.cfg = s.cfg ∧ t.pcBeyond = false ∧ t.pc = 0 ∧ t.getW 15 = 0x0800 ∧
    (∀ n, n ≠ 15 → t.getW n = 0) ∧ t.sr = 0 ∧ t.corcon = 0 ∧ t.intcon1 = 0 ∧ t.intcon2 = 0 ∧
    (∀ n : Fin 8, t.ifs[n] = 0 ∧ t.iec[n] = 0) ∧
    (∀ v : Vec, t.ipField v = if s.implemented v then 4 else 0) ∧
    (s.cfg.implVec = BitVec.allOnes 118 → ∀ n : Fin 30, t.ipc[n] = if n = 29 then 0x0044 else 0x4444) ∧
    t.disicnt = 0 ∧ t.splimEn = false ∧ t.mode = .run ∧ t.noStall = true ∧ t.skidStack = 0 ∧ t.skidMath = 0 ∧
    t.wrinh = false ∧ t.cpuPri = 0 ∧ t.prog = s.prog ∧ t.trapr = (s.trapr || c == .trapConflict)

/-- R143, R244: RESET is a device reset by software, in one cycle, that leaves TRAPR as it was.
The encoding and the operation are the spec's general knowledge (log 28). That TRAPR is kept is the spec's inference (R143). -/
def Obligations.ResetInstructionResetsDevice : Prop :=
  decodeWords [0xFE0000#24] = .ok (.reset, []) ∧
  ∀ s : State, ∃ t, exec .reset s = .next t ∧ t = (s.deviceReset .software).took 1 ∧ t.pc = 0 ∧ t.getW 15 = 0x0800 ∧
    t.cpuPri = 0 ∧ t.trapr = s.trapr ∧ t.prog = s.prog ∧ t.cfg = s.cfg ∧ t.slot.cycles = 1

/-- R144: PWRSAV advances the PC and enters Sleep for 0, Idle for 1, in one cycle, and changes nothing else. -/
def Obligations.PwrsavEntersMode : Prop :=
  ∀ (k : BitVec 1) (s : State), decodeWords [0x7F2000#23 ++ k] = .ok (.pwrsav k, []) ∧
    ∃ t, exec (.pwrsav k) s = .next t ∧ t.pc = s.pc + 2 ∧ t.mode = (if k = 0 then .sleep else .idle) ∧ t.slot.cycles = 1 ∧
      t.slot.raised = .none ∧ SameW s t ∧ SameStatus s t ∧ SameControl s t ∧ SameSources s t ∧ SameHidden s t ∧
      SameOutside s t ∧ SameBytes s t

/-- R147: NOP, its low 16 bits ignored, advances the PC in one cycle and changes nothing else.
The encoding and the cycle count are the spec's general knowledge (log 28). -/
def Obligations.NopAdvancesPcOnly : Prop :=
  (∀ x : BitVec 16, decodeWords [0x00#8 ++ x] = .ok (.nop, [])) ∧
  ∀ s : State, ∃ t, exec .nop s = .next t ∧ t.pc = s.pc + 2 ∧ t.slot.cycles = 1 ∧ t.slot.raised = .none ∧
    SameW s t ∧ SameStatus s t ∧ SameSystem s t ∧ SameBytes s t

/-! ## PUSH and POP -/

/-- R145, R84, R186 to R188: PUSH of a readable word onto a stack in ordinary memory writes the word at W15 and adds 2; it raises
only the stack error trap, when the address is faulty or W15 wraps.
The encoding and the operation are the spec's general knowledge (log 28). The stack checks are as the spec's decision D18
reads them. -/
def Obligations.PushStoresAtStackPointer : Prop :=
  ∀ (x : BitVec 15) (s : State), decodeWords [0xF8#8 ++ x ++ 0#1] = .ok (.push (x ++ 0#1), []) ∧
    ∀ (f : DataAddr) (v : Word), s.RamAt s.sp →
      (s.RamAt f ∧ v = s.ramWord f ∨ ∃ r, s.SfrIs f r ∧ r ≠ .rcon ∧ r ≠ .osccon ∧ v = s.sfrValue r) →
      ∃ t, exec (.push f) s = .next t ∧ t.ramWord s.sp = v ∧ SameBytesBut s.sp s t ∧ t.getW 15 = s.sp + 2 ∧
        SameOtherW 15 s t ∧ t.pc = s.pc + 2 ∧ t.slot.cycles = 1 ∧ SameStatus s t ∧ SameSystem s t ∧
        OnlyStackError t.slot.raised (s.stackFaulty s.sp || decide (0xFFFF < s.sp.toNat + 2))

/-- R82, R195: PUSH of a word in unimplemented data space raises AddressError and stores nothing, and still advances W15 and the
PC.
The inhibit of the instruction's own writes alone is the spec's decision D13. -/
def Obligations.PushOfUnimplementedStoresNothing : Prop :=
  ∀ (f : DataAddr) (s : State), s.cfg.dataImplemented f = false → s.sp.toNat + 2 ≤ 0xFFFF →
    ∃ t, exec (.push f) s = .next t ∧ t.slot.raised.addr = true ∧ SameBytes s t ∧ t.getW 15 = s.sp + 2 ∧
      SameOtherW 15 s t ∧ t.pc = s.pc + 2 ∧ SameStatus s t ∧ SameSystem s t

/-- R146, R85: POP of a stack in ordinary memory into ordinary memory takes W15 down by 2 and stores the word read there; into the
data-space image of W[m] it writes that register, W15 without bit 0 and with the stack check (R22, R186); into unimplemented data
space it takes W15 down alone (U19). Into any place, a register of 10_state.md among them, it ends as MOV of the popped word to
that place, once W15 is down by 2, so under the access rules of R57; the pop's own address can raise the stack error besides.
The encoding and the operation are the spec's general knowledge (log 28). Bit 0 of W15 is log 22; the stack checks are as the spec's
decision D18 reads them (log 23). -/
def Obligations.PopLoadsFromStack : Prop :=
  ∀ (x : BitVec 15) (s : State), decodeWords [0xF9#8 ++ x ++ 0#1] = .ok (.pop (x ++ 0#1), []) ∧
    ∀ (f : DataAddr) (v : Word), s.RamAt (s.sp - 2) → v = s.ramWord (s.sp - 2) →
      (s.RamAt f → ∃ t, exec (.pop f) s = .next t ∧ t.ramWord f = v ∧ SameBytesBut f s t ∧ t.getW 15 = s.sp - 2 ∧
        SameOtherW 15 s t ∧ t.pc = s.pc + 2 ∧ t.slot.cycles = 1 ∧ SameStatus s t ∧ SameSystem s t ∧
        OnlyStackError t.slot.raised (s.stackFaulty (s.sp - 2))) ∧
      (∀ m, s.SfrIs f (.w m) → ∃ t, exec (.pop f) s = .next t ∧ t.getW m = (if m = 15 then v &&& 0xFFFE else v) ∧
        (m ≠ 15 → t.getW 15 = s.sp - 2) ∧ (∀ n, n ≠ m → n ≠ 15 → t.getW n = s.getW n) ∧ SameBytes s t ∧ t.pc = s.pc + 2 ∧
        t.slot.cycles = 1 ∧ SameStatus s t ∧ SameSystem s t ∧
        OnlyStackError t.slot.raised (s.stackFaulty (s.sp - 2) || (decide (m = 15) && decide (v.toNat < 0x0800)))) ∧
      (f.getLsbD 0 = false → s.cfg.dataImplemented f = false → ∃ t, exec (.pop f) s = .next t ∧ SameBytes s t ∧
        t.getW 15 = s.sp - 2 ∧ SameOtherW 15 s t ∧ t.pc = s.pc + 2 ∧ t.slot.cycles = 1 ∧ SameStatus s t ∧ SameSystem s t ∧
        OnlyStackError t.slot.raised (s.stackFaulty (s.sp - 2))) ∧
      (∀ (n : WReg) (m : State), n ≠ 15 → s.getW n = v →
        exec (.movToFile n f) { s with w := (s.putW 15 (s.sp - 2)).w } = .next m →
        exec (.pop f) s = .next { m with slot := { m.slot with raised := { m.slot.raised with
          stk := m.slot.raised.stk || s.stackFaulty (s.sp - 2) } } })

/-- R146, R57: POP SR is a software write: RA and the unimplemented bits stay, IPL<2:0> stays while NSTDIS = 1, every other
implemented bit is the popped one; the pop alone can raise the stack error trap. -/
def Obligations.PopSrIsSoftwareWrite : Prop :=
  ∀ (f : DataAddr) (s : State), s.RamAt (s.sp - 2) → s.SfrIs f .sr →
    ∃ t, exec (.pop f) s = .next t ∧ t.getW 15 = s.sp - 2 ∧ SameOtherW 15 s t ∧ SameBytes s t ∧ t.corcon = s.corcon ∧
      SameSystem s t ∧ t.pc = s.pc + 2 ∧ t.slot.cycles = 1 ∧
      OnlyStackError t.slot.raised (s.stackFaulty (s.sp - 2)) ∧
      ∀ b, b < 16 → t.sr.getLsbD b =
        if b = 4 ∨ 8 < b ∨ (5 ≤ b ∧ b ≤ 7 ∧ s.nstdis = true) then s.sr.getLsbD b else (s.ramWord (s.sp - 2)).getLsbD b

/-! ## The MOV forms, BSET, BCLR and IOR -/

/-- R152: MOV #lit16, Wnd loads the literal in one cycle and sets no flag; W15 ignores bit 0 (R22) and, below 0x0800, raises the
stack error trap (R186).
The encoding and the operation are the spec's general knowledge (log 28). The check of a written W15 is the spec's decision
D18. -/
def Obligations.MovLiteralLoadsRegister : Prop :=
  ∀ (k : Word) (d : WReg) (s : State), decodeWords [0x2#4 ++ k ++ BitVec.ofNat 4 d.val] = .ok (.movLit k d, []) ∧
    ∃ t, exec (.movLit k d) s = .next t ∧ t.getW d = (if d = 15 then k &&& 0xFFFE else k) ∧ SameOtherW d s t ∧
      t.pc = s.pc + 2 ∧ t.slot.cycles = 1 ∧ SameStatus s t ∧ SameSystem s t ∧ SameBytes s t ∧
      OnlyStackError t.slot.raised (decide (d = 15) && decide (k.toNat < 0x0800))

/-- R153: MOV Wns, f stores the register in ordinary memory, in the word at f alone; at the data-space image of W[m] it writes that
register, W15 without bit 0 and with the stack check (R22, R186); at unimplemented data space it has no effect (U19).
The encoding and the operation are the spec's general knowledge (log 28). Bit 0 of W15 is log 22, the check of a written W15 the
spec's decision D18. -/
def Obligations.MovStoresRegisterInMemory : Prop :=
  ∀ (x : BitVec 15) (n : WReg) (s : State),
    decodeWords [0x11#5 ++ x ++ BitVec.ofNat 4 n.val] = .ok (.movToFile n (x ++ 0#1), []) ∧
    ∀ f : DataAddr,
      (s.RamAt f → ∃ t, exec (.movToFile n f) s = .next t ∧ t.ramWord f = s.getW n ∧ SameBytesBut f s t ∧ SameW s t ∧
        t.pc = s.pc + 2 ∧ t.slot.cycles = 1 ∧ t.slot.raised = .none ∧ SameStatus s t ∧ SameSystem s t) ∧
      (∀ m, s.SfrIs f (.w m) → ∃ t, exec (.movToFile n f) s = .next t ∧
        t.getW m = (if m = 15 then s.getW n &&& 0xFFFE else s.getW n) ∧ SameOtherW m s t ∧ SameBytes s t ∧
        t.pc = s.pc + 2 ∧ t.slot.cycles = 1 ∧ SameStatus s t ∧ SameSystem s t ∧
        OnlyStackError t.slot.raised (decide (m = 15) && decide ((s.getW n).toNat < 0x0800))) ∧
      (f.getLsbD 0 = false → s.cfg.dataImplemented f = false → ∃ t, exec (.movToFile n f) s = .next t ∧ SameBytes s t ∧
        SameW s t ∧ t.pc = s.pc + 2 ∧ t.slot.cycles = 1 ∧ t.slot.raised = .none ∧ SameStatus s t ∧ SameSystem s t)

/-- R57, R25, R26, R29: MOV of a register to SR or CORCON, bit by bit: RA is read-only, IPL<2:0> is read-only while NSTDIS = 1, IPL3
is cleared by 0 and kept by 1, unimplemented bits stay; nothing else changes.
IPL3 as a clearable bit is the spec's choice (conflict C3, decision D32). -/
def Obligations.MovToStatusRegisterObeysAccessRules : Prop :=
  ∀ (n : WReg) (f : DataAddr) (s : State),
    (s.SfrIs f .sr → ∃ t, exec (.movToFile n f) s = .next t ∧ t.corcon = s.corcon ∧ SameSystem s t ∧ SameW s t ∧
      SameBytes s t ∧ t.pc = s.pc + 2 ∧ t.slot.raised = .none ∧ ∀ b, b < 16 → t.sr.getLsbD b =
        if b = 4 ∨ 8 < b ∨ (5 ≤ b ∧ b ≤ 7 ∧ s.nstdis = true) then s.sr.getLsbD b else (s.getW n).getLsbD b) ∧
    (s.SfrIs f .corcon → ∃ t, exec (.movToFile n f) s = .next t ∧ t.sr = s.sr ∧ SameSystem s t ∧ SameW s t ∧
      SameBytes s t ∧ t.pc = s.pc + 2 ∧ t.slot.raised = .none ∧ ∀ b, b < 16 → t.corcon.getLsbD b =
        if b = 3 then s.corcon.getLsbD b && (s.getW n).getLsbD b
        else if b = 2 then (s.getW n).getLsbD b else s.corcon.getLsbD b)

/-- R57, R199, D7: MOV of a register to INTCON1, bit by bit: NSTDIS is stored; a set trap flag is cleared by 0 and kept by 1; a clear
one is set, and its trap raised, by 1 exactly when SW_TRAPFLAG_SET_TRAPS; the other bits are 0. The bits written 0 are those that can
lose a race in the slot (R56, log 14).
Both values of SW_TRAPFLAG_SET_TRAPS are covered (decision D7). -/
def Obligations.MovToIntcon1ObeysAccessRules : Prop :=
  ∀ (n : WReg) (f : DataAddr) (s : State), s.SfrIs f .intcon1 →
    ∃ t, exec (.movToFile n f) s = .next t ∧ t.pc = s.pc + 2 ∧ SameW s t ∧ SameBytes s t ∧ SameStatus s t ∧
      SameSources s t ∧ SameHidden s t ∧ SameOutside s t ∧ t.intcon2 = s.intcon2 ∧ t.disicnt = s.disicnt ∧
      t.slot.written = [(.intcon1, ~~~s.getW n)] ∧ t.nstdis = (s.getW n).getLsbD 15 ∧
      (∀ x : Trap, t.trapFlag x =
        ((s.getW n).getLsbD x.flagBit && (s.trapFlag x || s.cfg.swTrapflagSetTraps))) ∧
      (∀ x : Trap, t.slot.raised.has x =
        ((s.getW n).getLsbD x.flagBit && !s.trapFlag x && s.cfg.swTrapflagSetTraps)) ∧
      ∀ b, b = 0 ∨ (5 ≤ b ∧ b ≤ 14) → t.intcon1.getLsbD b = false

/-- R57, R36, R37, R55: MOV of a register to INTCON2, bit by bit: ALTIVT and the polarity of each pin the device has are stored; DISI
and every other bit stay.
That the polarity bit of a pin the device lacks is unimplemented is read from R5 and R37. -/
def Obligations.MovToIntcon2ObeysAccessRules : Prop :=
  ∀ (n : WReg) (f : DataAddr) (s : State), s.SfrIs f .intcon2 →
    ∃ t, exec (.movToFile n f) s = .next t ∧ t.pc = s.pc + 2 ∧ SameW s t ∧ SameBytes s t ∧ SameStatus s t ∧
      SameSources s t ∧ SameHidden s t ∧ SameOutside s t ∧ t.intcon1 = s.intcon1 ∧ t.disicnt = s.disicnt ∧
      t.slot.raised = .none ∧
      ∀ b, b < 16 → t.intcon2.getLsbD b =
        if b = 15 ∨ b < s.cfg.nExtInt.val then (s.getW n).getLsbD b else s.intcon2.getLsbD b

/-- R124, R125: MOV of a register to DISICNT stores 14 bits; a write of 0 ends the DISI in effect, and no write begins one.
Storing a value with no DISI in effect is the spec's decision D15. -/
def Obligations.MovToDisicntExtendsOrEndsDisi : Prop :=
  ∀ (n : WReg) (f : DataAddr) (s : State), s.SfrIs f .disicnt →
    ∃ t, exec (.movToFile n f) s = .next t ∧ t.pc = s.pc + 2 ∧ SameW s t ∧ SameBytes s t ∧ SameStatus s t ∧
      SameSources s t ∧ SameHidden s t ∧ SameOutside s t ∧ t.intcon1 = s.intcon1 ∧ t.slot.raised = .none ∧
      t.disicnt = (s.getW n).extractLsb' 0 14 ∧ t.disiBit = (s.disiBit && (s.getW n).extractLsb' 0 14 != 0#14) ∧
      ∀ b, b ≠ 14 → t.intcon2.getLsbD b = s.intcon2.getLsbD b

/-- R23: MOV of a register to SPLIM stores it, without bit 0, and enables the overflow check; R46, R243: a write of RCON whose bit 15
is 0 clears TRAPR and nothing else, one whose bit 15 is 1 is refused, and BCLR of bit 15 clears TRAPR alone; R47, R243: a write to
OSCCON clears CF when bit 3 is 0 and does not set it, by BSET and BCLR of a bit of its low byte too, of which BCLR of bit 3 alone
clears CF.
Bit 0 of SPLIM (log 22) and the clearing of TRAPR and CF by 0 (R243, U4) are general knowledge in the spec. That a written 1 keeps CF
and sets it not, that the bits the spec does not describe store nothing, and that a word of RCON with bit 15 set is refused, is the
model's choice (log 15). -/
def Obligations.MovToSplimRconOsccon : Prop :=
  ∀ (n : WReg) (f : DataAddr) (s : State),
    (s.SfrIs f .splim → ∃ t, exec (.movToFile n f) s = .next t ∧ t.splim = s.getW n &&& 0xFFFE ∧ t.splimEn = true ∧
      t.trapr = s.trapr ∧ t.cf = s.cf ∧ t.slot.raised = .none ∧ t.pc = s.pc + 2 ∧ SameW s t ∧ SameBytes s t ∧
      SameStatus s t ∧ SameControl s t ∧ SameSources s t ∧ SameOutside s t) ∧
    (s.SfrIs f .rcon → (s.getW n).getLsbD 15 = true → exec (.movToFile n f) s = .refused .rconOtherUse) ∧
    (s.SfrIs f .rcon → (s.getW n).getLsbD 15 = false → ∃ t, exec (.movToFile n f) s = .next t ∧ t.trapr = false ∧
      t.cf = s.cf ∧ t.splim = s.splim ∧ t.splimEn = s.splimEn ∧ t.slot.raised = .none ∧ t.pc = s.pc + 2 ∧
      SameW s t ∧ SameBytes s t ∧ SameStatus s t ∧ SameControl s t ∧ SameSources s t ∧ SameOutside s t) ∧
    (∀ (g : BitVec 13) (bit4 : BitVec 4) (a : DataAddr), a = bitByteAddr g bit4 → s.cfg.dataImplemented a = true →
      s.cfg.sfrAt a = some .rcon → s.cfg.upperLane a = true → bit4.toNat % 8 = 7 →
      ∃ t, exec (.bclr g bit4) s = .next t ∧ t.trapr = false ∧ t.cf = s.cf ∧ t.splim = s.splim ∧ t.splimEn = s.splimEn ∧
        t.slot.raised = .none ∧ t.pc = s.pc + 2 ∧ SameW s t ∧ SameBytes s t ∧ SameStatus s t ∧ SameControl s t ∧
        SameSources s t ∧ SameOutside s t) ∧
    (s.SfrIs f .osccon → ∃ t, exec (.movToFile n f) s = .next t ∧ t.cf = (s.cf && (s.getW n).getLsbD 3) ∧
      t.slot.written = [(.osccon, ~~~s.getW n)] ∧
      t.trapr = s.trapr ∧ t.splim = s.splim ∧ t.splimEn = s.splimEn ∧ t.slot.raised = .none ∧ t.pc = s.pc + 2 ∧
      SameW s t ∧ SameBytes s t ∧ SameStatus s t ∧ SameControl s t ∧ SameSources s t ∧ SameOutside s t) ∧
    (∀ (g : BitVec 13) (bit4 : BitVec 4) (a : DataAddr), a = bitByteAddr g bit4 → s.cfg.dataImplemented a = true →
      s.cfg.sfrAt a = some .osccon → s.cfg.upperLane a = false →
      ∃ t u, exec (.bclr g bit4) s = .next t ∧ exec (.bset g bit4) s = .next u ∧
        t.cf = (s.cf && decide (bit4.toNat % 8 ≠ 3)) ∧ u.cf = s.cf ∧
        ∀ x : State, x = t ∨ x = u → x.trapr = s.trapr ∧ x.splim = s.splim ∧ x.splimEn = s.splimEn ∧
          x.slot.raised = .none ∧ x.pc = s.pc + 2 ∧ SameW s x ∧ SameBytes s x ∧ SameStatus s x ∧ SameControl s x ∧
          SameSources s x ∧ SameOutside s x)

/-- R57, R38 to R44, R55, R4: MOV of a register to IFSn, IECn or IPCn stores the field of every implemented vector of that register
and leaves every other vector's alone; the bits written 0 are those that can lose a race in the slot (R56, log 14).
That an unimplemented vector's bits stay is R4 and R55. -/
def Obligations.MovToSourceRegisterStoresFields : Prop :=
  ∀ (n : WReg) (f : DataAddr) (s : State),
    (∀ k : Fin 8, s.SfrIs f (.ifs k) → ∃ t, exec (.movToFile n f) s = .next t ∧ t.iec = s.iec ∧ t.ipc = s.ipc ∧ SameW s t ∧
      t.pc = s.pc + 2 ∧ t.slot.cycles = 1 ∧ t.slot.raised = .none ∧ t.slot.written = [(.ifs k, ~~~s.getW n)] ∧
      SameBytes s t ∧ SameStatus s t ∧ SameControl s t ∧ SameHidden s t ∧ SameOutside s t ∧ ∀ v : Vec, t.ifBit v =
        if v.val / 16 = k.val ∧ s.implemented v = true then (s.getW n).getLsbD (v.val % 16) else s.ifBit v) ∧
    (∀ k : Fin 8, s.SfrIs f (.iec k) → ∃ t, exec (.movToFile n f) s = .next t ∧ t.ifs = s.ifs ∧ t.ipc = s.ipc ∧ SameW s t ∧
      t.pc = s.pc + 2 ∧ t.slot.cycles = 1 ∧ t.slot.raised = .none ∧ t.slot.written = [(.iec k, ~~~s.getW n)] ∧
      SameBytes s t ∧ SameStatus s t ∧ SameControl s t ∧ SameHidden s t ∧ SameOutside s t ∧ ∀ v : Vec, t.ieBit v =
        if v.val / 16 = k.val ∧ s.implemented v = true then (s.getW n).getLsbD (v.val % 16) else s.ieBit v) ∧
    (∀ k : Fin 30, s.SfrIs f (.ipc k) → ∃ t, exec (.movToFile n f) s = .next t ∧ t.ifs = s.ifs ∧ t.iec = s.iec ∧ SameW s t ∧
      t.pc = s.pc + 2 ∧ t.slot.cycles = 1 ∧ t.slot.raised = .none ∧ t.slot.written = [(.ipc k, ~~~s.getW n)] ∧
      SameBytes s t ∧ SameStatus s t ∧ SameControl s t ∧ SameHidden s t ∧ SameOutside s t ∧ ∀ v : Vec, t.ipField v =
        if v.val / 4 = k.val ∧ s.implemented v = true then (s.getW n).extractLsb' (4 * (v.val % 4)) 3 else s.ipField v)

/-- R154: MOV f, Wnd loads a word of ordinary memory or a register; from RCON and OSCCON it loads TRAPR in bit 15 and CF in bit 3;
from unimplemented data space it raises AddressError and completes, with any value in Wnd (R82, R192, U18); a W15 loaded with a
value below 0x0800 raises the stack error trap (R186).
The encoding and the operation are the spec's general knowledge (log 28). The check of a written W15 is the spec's decision D18
(log 23). -/
def Obligations.MovLoadsWordFromFile : Prop :=
  ∀ (x : BitVec 15) (d : WReg) (s : State),
    decodeWords [0x10#5 ++ x ++ BitVec.ofNat 4 d.val] = .ok (.movFromFile (x ++ 0#1) d, []) ∧
    ∀ f : DataAddr, f.getLsbD 0 = false →
      ∃ t, exec (.movFromFile f d) s = .next t ∧ SameOtherW d s t ∧ t.pc = s.pc + 2 ∧ t.slot.cycles = 1 ∧ SameStatus s t ∧
        SameSystem s t ∧ SameBytes s t ∧
        t.slot.raised = ⟨false, !s.cfg.dataImplemented f, decide (d = 15) && decide ((t.getW 15).toNat < 0x0800), false⟩ ∧
        (s.RamAt f → t.getW d = if d = 15 then s.ramWord f &&& 0xFFFE else s.ramWord f) ∧
        (∀ r, s.SfrIs f r → r ≠ .rcon → r ≠ .osccon →
          t.getW d = if d = 15 then s.sfrValue r &&& 0xFFFE else s.sfrValue r) ∧
        (s.SfrIs f .rcon → (t.getW d).getLsbD 15 = s.trapr) ∧ (s.SfrIs f .osccon → (t.getW d).getLsbD 3 = s.cf)

/-- R155, R156: BSET and BCLR of a byte of ordinary memory change that one bit of that one byte, and no flag; of a byte of
unimplemented data space they raise AddressError and change nothing (R192, R195). -/
def Obligations.BitInstructionsChangeOneBit : Prop :=
  ∀ (b : BitVec 3) (f : BitVec 12) (B : BitVec 1) (s : State),
    decodeWords [0xA8#8 ++ b ++ f ++ B] = .ok (.bset (f ++ 0#1) (B ++ b), []) ∧
    decodeWords [0xA9#8 ++ b ++ f ++ B] = .ok (.bclr (f ++ 0#1) (B ++ b), []) ∧
    ∀ (g : BitVec 13) (bit4 : BitVec 4) (a : DataAddr), a = bitByteAddr g bit4 →
      (s.cfg.dataImplemented a = false → ∀ i, i = .bset g bit4 ∨ i = .bclr g bit4 →
        ∃ t, exec i s = .next t ∧ OnlyAddressError t.slot.raised true ∧ SameBytes s t ∧ SameW s t ∧ t.pc = s.pc + 2 ∧
          t.slot.cycles = 1 ∧ SameStatus s t ∧ SameSystem s t) ∧
      (s.cfg.dataImplemented a = true → s.cfg.sfrAt a = none →
      (∃ t, exec (.bset g bit4) s = .next t ∧ t.ramByte a = s.ramByte a ||| 1#8 <<< (bit4.toNat % 8) ∧
        (∀ c, c ≠ a → t.ramByte c = s.ramByte c) ∧ SameW s t ∧ t.pc = s.pc + 2 ∧ t.slot.cycles = 1 ∧
        t.slot.raised = .none ∧ SameStatus s t ∧ SameSystem s t) ∧
      (∃ t, exec (.bclr g bit4) s = .next t ∧ t.ramByte a = s.ramByte a &&& ~~~(1#8 <<< (bit4.toNat % 8)) ∧
        (∀ c, c ≠ a → t.ramByte c = s.ramByte c) ∧ SameW s t ∧ t.pc = s.pc + 2 ∧ t.slot.cycles = 1 ∧
        t.slot.raised = .none ∧ SameStatus s t ∧ SameSystem s t))

/-- R155, R156: BSET and BCLR on a register other than SPLIM, RCON and OSCCON end as MOV of the register's value with that bit changed
would, so under the rules of R57. BCLR on the flag (R38, R44) or the enable (R40) of an implemented vector clears that one alone,
BSET sets it alone; on INTCON1, BCLR of a trap flag withdraws that trap alone, and bit 15 is NSTDIS. They raise nothing on a
register that is no W image, but that BSET of a clear trap flag sets it and raises that one trap where SW_TRAPFLAG_SET_TRAPS, and
leaves it clear where not (R57, R199). The bits that can lose a race in the slot are those of the byte that are written 0 (R56, log
14). In little-endian order.
The encoding and the operation are the spec's general knowledge (log 28). The byte order is the one of decision D1. That a byte write of
a register ends as a write of its whole value with the bit changed, on DISICNT also that it ends a DISI, is the model's deduction
from R57 and R155 (log 31). -/
def Obligations.BitInstructionsOnRegisters : Prop :=
  ∀ (f : BitVec 13) (bit4 : BitVec 4) (s : State) (r : Sfr), s.cfg.byteOrder = .little → s.SfrIs (f.setWidth 16) r →
    s.cfg.dataImplemented (bitByteAddr f bit4) = true → r ≠ .splim → r ≠ .rcon → r ≠ .osccon →
    ∃ t u, exec (.bclr f bit4) s = .next t ∧ exec (.bset f bit4) s = .next u ∧
      (∀ n m, s.getW n = setBit (s.sfrValue r) bit4.toNat false → exec (.movToFile n (f.setWidth 16)) s = .next m →
        t = { m with slot := { m.slot with written := t.slot.written } }) ∧
      (∀ n m, s.getW n = setBit (s.sfrValue r) bit4.toNat true → exec (.movToFile n (f.setWidth 16)) s = .next m →
        u = { m with slot := { m.slot with written := u.slot.written } }) ∧
      (∀ x : State, x = t ∨ x = u → x.pc = s.pc + 2 ∧ x.slot.cycles = 1 ∧ SameBytes s x ∧ SameHidden s x ∧ SameOutside s x ∧
        ((∀ n, r ≠ .w n) → SameW s x ∧ (r ≠ .intcon1 → x.slot.raised = .none)) ∧ (r ≠ .sr → r ≠ .corcon → SameStatus s x) ∧
        (r ≠ .intcon1 → r ≠ .intcon2 → r ≠ .disicnt → SameControl s x) ∧
        ((∀ n, r ≠ .ifs n) → x.ifs = s.ifs) ∧ ((∀ n, r ≠ .iec n) → x.iec = s.iec) ∧ ((∀ n, r ≠ .ipc n) → x.ipc = s.ipc)) ∧
      (∀ mask : Word, mask = (if bit4.toNat < 8 then 0x00FF else 0xFF00) →
        t.slot.written = [(r, mask &&& ~~~setBit (s.sfrValue r) bit4.toNat false)] ∧
        u.slot.written = [(r, mask &&& ~~~setBit (s.sfrValue r) bit4.toNat true)]) ∧
      (∀ k, r = .ifs k → ∀ v : Vec, s.implemented v = true →
        t.ifBit v = (s.ifBit v && !decide (v.val = 16 * k.val + bit4.toNat)) ∧
        u.ifBit v = (s.ifBit v || decide (v.val = 16 * k.val + bit4.toNat))) ∧
      (∀ k, r = .iec k → ∀ v : Vec, s.implemented v = true →
        t.ieBit v = (s.ieBit v && !decide (v.val = 16 * k.val + bit4.toNat)) ∧
        u.ieBit v = (s.ieBit v || decide (v.val = 16 * k.val + bit4.toNat))) ∧
      (r = .intcon1 → t.intcon2 = s.intcon2 ∧ t.disicnt = s.disicnt ∧ u.intcon2 = s.intcon2 ∧ u.disicnt = s.disicnt ∧
        t.slot.raised = .none ∧ t.nstdis = (s.nstdis && bit4 != 15) ∧ u.nstdis = (s.nstdis || bit4 == 15) ∧
        ∀ y : Trap, t.trapFlag y = (s.trapFlag y && bit4.toNat != y.flagBit) ∧
          u.trapFlag y = (s.trapFlag y || (bit4.toNat == y.flagBit && s.cfg.swTrapflagSetTraps)) ∧
          u.slot.raised.has y = (bit4.toNat == y.flagBit && !s.trapFlag y && s.cfg.swTrapflagSetTraps))

/-- R157: IOR of a 10-bit literal into a W register sets N and Z by the result and keeps every other bit of SR; a W15 below 0x0800
raises the stack error trap (R186).
The encoding and the operation are the spec's general knowledge (log 28), and so is that W15 holds no bit 0 (log 22). The check of a
written W15 is the spec's decision D18. -/
def Obligations.IorSetsRegisterAndFlags : Prop :=
  ∀ (k : BitVec 10) (n : WReg) (s : State), decodeWords [0x2CC#10 ++ k ++ BitVec.ofNat 4 n.val] = .ok (.iorLit k n, []) ∧
    ∃ t, exec (.iorLit k n) s = .next t ∧
      t.getW n = (if n = 15 then (s.getW n ||| k.setWidth 16) &&& 0xFFFE else s.getW n ||| k.setWidth 16) ∧
      SameOtherW n s t ∧ t.sr.getLsbD 3 = (s.getW n ||| k.setWidth 16).getLsbD 15 ∧
      t.sr.getLsbD 1 = (s.getW n ||| k.setWidth 16 == 0) ∧ (∀ b, b ≠ 1 → b ≠ 3 → t.sr.getLsbD b = s.sr.getLsbD b) ∧
      t.corcon = s.corcon ∧ t.pc = s.pc + 2 ∧ t.slot.cycles = 1 ∧ SameSystem s t ∧ SameBytes s t ∧
      OnlyStackError t.slot.raised (decide (n = 15) && decide ((s.getW n ||| k.setWidth 16).toNat < 0x0800))

/-- R158, R190, R192, U18: MOV [Ws], Wd loads the word W[s] points at; an odd or unimplemented address raises AddressError, and the
instruction completes all the same, with any value in Wd.
The encoding and the operation are the spec's general knowledge (log 28). -/
def Obligations.MovIndirectLoadsOrRaises : Prop :=
  ∀ (n d : WReg) (s : State),
    decodeWords [0x0F00#13 ++ BitVec.ofNat 4 d.val ++ 0x1#3 ++ BitVec.ofNat 4 n.val] = .ok (.movInd n d, []) ∧
    ∃ t, exec (.movInd n d) s = .next t ∧ SameOtherW d s t ∧ t.pc = s.pc + 2 ∧ t.slot.cycles = 1 ∧ SameStatus s t ∧
      SameSystem s t ∧ SameBytes s t ∧
      t.slot.raised.addr = ((s.getW n).getLsbD 0 || !s.cfg.dataImplemented (s.getW n)) ∧
      t.slot.raised.osc = false ∧ t.slot.raised.math = false ∧
      (n = 15 → s.stackFaulty (s.getW n) = true → t.slot.raised.stk = true) ∧
      (n ≠ 15 → d ≠ 15 → t.slot.raised.stk = false) ∧
      (s.RamAt (s.getW n) → t.getW d = if d = 15 then s.ramWord (s.getW n) &&& 0xFFFE else s.ramWord (s.getW n)) ∧
      (∀ r, s.SfrIs (s.getW n) r → r ≠ .rcon → r ≠ .osccon →
        t.getW d = if d = 15 then s.sfrValue r &&& 0xFFFE else s.sfrValue r)

/-! ## Rules over all instructions -/

/-- R185 with R23, R46, R47, U14: every instruction completes from every state, but for the writes of a register that the model refuses,
each by its name: BSET and BCLR of a byte of SPLIM; any write of RCON but a clear of TRAPR, so BSET, BCLR of another bit than 15, and
MOV and POP to it and PUSH onto it of a word with bit 15 set, where the write takes place; BSET and BCLR of the high byte of
OSCCON. No instruction faults, and a BSET or
BCLR that completes advances the PC by 2.
Refusing a byte write of SPLIM follows U14 (log 16), the other refusals are the model's reading of R46 and R47 (log 15). -/
def Obligations.OnlyNamedWritesAreRefused : Prop :=
  ∀ (i : Instr) (s : State), ((∃ t, exec i s = .next t) ∨ ∃ r, exec i s = .refused r) ∧
    (∀ r, exec i s = .refused r ↔
      (∃ f bit4 a, (i = .bset f bit4 ∨ i = .bclr f bit4) ∧ a = bitByteAddr f bit4 ∧ s.cfg.dataImplemented a = true ∧
        (s.cfg.sfrAt a = some .splim ∧ r = .splimByteWrite ∨
         s.cfg.sfrAt a = some .rcon ∧ r = .rconOtherUse ∧
          ¬ (i = .bclr f bit4 ∧ s.cfg.upperLane a = true ∧ bit4.toNat % 8 = 7) ∨
         s.cfg.sfrAt a = some .osccon ∧ s.cfg.upperLane a = true ∧ r = .oscconOtherUse)) ∨
      (∃ n f, i = .movToFile n f ∧ s.SfrIs f .rcon ∧ (s.getW n).getLsbD 15 = true ∧ r = .rconOtherUse) ∨
      (∃ f, i = .pop f ∧ s.SfrIs f .rcon ∧ s.cfg.dataImplemented (s.sp - 2) = true ∧
        s.begin.pop16.1.getLsbD 15 = true ∧ r = .rconOtherUse) ∨
      (∃ f, i = .push f ∧ s.SfrIs s.sp .rcon ∧ f.getLsbD 0 = false ∧ s.cfg.dataImplemented f = true ∧
        (s.begin.readWord f).1.getLsbD 15 = true ∧ r = .rconOtherUse)) ∧
    (∀ f bit4 t, i = .bset f bit4 ∨ i = .bclr f bit4 → exec i s = .next t → t.pc = s.pc + 2)

/-- R25, R216: while NSTDIS = 1, SR<7:5> is read-only: no instruction but RETFIE (a hardware write) and RESET changes it.
It covers the instructions of the opcode table; entries write IPL all the same (R207). -/
def Obligations.NstdisMakesIplReadOnly : Prop :=
  ∀ (i : Instr) (s t : State), exec i s = .next t → s.nstdis = true → i ≠ .retfie → i ≠ .reset → t.ipl = s.ipl

/-- R26, R29, R36, R173: no instruction but RETFIE and RESET changes SR.RA, none but RETFIE takes CORCON.IPL3 from 0 to 1, and only
DISI takes INTCON2.DISI from 0 to 1.
It covers the instructions of the opcode table. -/
def Obligations.ReadOnlyBitsAreReadOnly : Prop :=
  ∀ (i : Instr) (s t : State), exec i s = .next t →
    (i ≠ .retfie → i ≠ .reset → t.sr.getLsbD 4 = s.sr.getLsbD 4) ∧
    (s.ipl3 = false → t.ipl3 = true → i = .retfie) ∧
    (s.disiBit = false → t.disiBit = true → ∃ k, i = .disi k)

/-- R159 item 7, R160: MODE is changed by PWRSAV and RESET alone, HARDSTALL, SKID and PINPREV by RESET alone, SPLIM_EN is cleared by
RESET alone, and every instruction takes its cycles. The PC is marked as past the top of the program space by the increment of an
instruction that transfers no control, exactly when PC + 2 passes 0x7FFFFE (R21, log 36).
The cycle counts are the spec's general knowledge (log 28). -/
def Obligations.InstructionsLeaveHiddenState : Prop :=
  ∀ (i : Instr) (s t : State), exec i s = .next t →
    (i ≠ .reset → (∀ k, i ≠ .pwrsav k) → t.mode = s.mode) ∧
    (i ≠ .reset → t.stallOsc = s.stallOsc ∧ t.stallAddr = s.stallAddr ∧ t.skidStack = s.skidStack ∧
      t.skidMath = s.skidMath ∧ t.pinprev = s.pinprev ∧ (s.splimEn = true → t.splimEn = true)) ∧
    t.slot.cycles = (match i with | .goto _ => 2 | .bra _ => 2 | .ret => 3 | .retfie => 3 | _ => 1) ∧
    t.pcBeyond = (match i with
      | .goto _ => false | .bra _ => false | .ret => false | .retfie => false | .reset => false
      | _ => decide (0x800000 ≤ s.pc.toNat + 2))

/-- R195: the data-space writes of an instruction that raises AddressError do not take place: memory, SR and CORCON (but for RETFIE,
which restores them from the frame), every control register, flag, enable and priority, SPLIM, TRAPR, CF, and every W register
that is neither the stack pointer nor the instruction's destination keep their values. Shut out by name: an AddressError that the
instruction raises by writing 1 to the clear flag ADDRERR itself, which SW_TRAPFLAG_SET_TRAPS allows (log 19).
The inhibit of the instruction's own writes alone is the spec's decision D13. -/
def Obligations.AddressErrorInhibitsWrites : Prop :=
  ∀ (i : Instr) (s t : State), exec i s = .next t → t.slot.raised.addr = true →
    (t.trapFlag .addressError = true → s.trapFlag .addressError = true) →
    SameBytes s t ∧ SameControl s t ∧ SameSources s t ∧ SameHidden s t ∧ (i ≠ .retfie → SameStatus s t) ∧
    ∀ n, n ≠ 15 → (∀ f, i ≠ .movFromFile f n) → (∀ m, i ≠ .movInd m n) → t.getW n = s.getW n

/-! ## Arbitration -/

/-- R180: the winner is an eligible source of the highest user priority and, among those, of the lowest vector number; there is one
exactly when some source is eligible. -/
def Obligations.WinnerIsHighestThenLowestVector : Prop :=
  ∀ (s : State), (∀ v : Vec, s.winner = some v ↔ s.eligible v = true ∧ ∀ u, s.eligible u = true →
      (s.ipField u).toNat < (s.ipField v).toNat ∨ (s.ipField u = s.ipField v ∧ v.val ≤ u.val)) ∧
    (s.winner = none ↔ ∀ u, s.eligible u = false)

/-- R204, with R172 and R200: a trap is a candidate when its flag is set, its priority is above CPUPRI and, for a soft trap, its skid
is over; the candidate of highest priority is selected, with no candidate the winner of R180, and nothing else; what is selected
has a priority above CPUPRI. -/
def Obligations.SelectionTakesTrapsFirst : Prop :=
  ∀ s : State, (∀ x : Trap, s.trapCandidate x = true ↔ s.trapFlag x = true ∧ s.cpuPri < 15 - x.number ∧
      (x = .stackError → s.skidStack = 0) ∧ (x = .mathError → s.skidMath = 0)) ∧
    (∀ t, s.select = some (.trap t) ↔ s.trapCandidate t = true ∧ ∀ x, s.trapCandidate x = true → x.priority ≤ t.priority) ∧
    (∀ v, s.select = some (.irq v) ↔ (∀ x, s.trapCandidate x = false) ∧ s.winner = some v) ∧
    (∀ src, s.select = some src → s.cpuPri < s.sourcePri src)

/-- R183 with R197 and R204: a trap whose flag is set and whose skid is over is held off by CPUPRI alone: above CPUPRI, it or a trap
of higher priority is selected, whatever the enable bits, the priority fields and DISI are; and with IPL3 = 0 every trap is above
CPUPRI, whatever IPL<2:0> is.
A soft trap is held off besides while its skid lasts: that is R197, the spec's decision D11, and the premise skid = 0. -/
def Obligations.TrapsCannotBeMasked : Prop :=
  ∀ (s : State) (x : Trap), (s.ipl3 = false → s.cpuPri < x.priority) ∧
    (s.trapFlag x = true → s.skid x = 0 → s.cpuPri < x.priority →
      ∃ t, s.select = some (.trap t) ∧ x.priority ≤ t.priority)

/-- R121, R178, R179: unmasked, a source is eligible exactly when it is flagged, enabled and implemented and its priority is above
CPUPRI, so not at the CPU's own; DISI masks priorities 1 to 6 and leaves priority 7 as it is; IPL<2:0> = 111 disables every user
interrupt (R172);
an unimplemented vector never interrupts (R4).
That an unimplemented vector never requests is the spec's decision D23. -/
def Obligations.MaskingOfUserInterrupts : Prop :=
  ∀ (s : State) (v : Vec),
    (s.slot.masked = false →
      s.eligible v = (s.ifBit v && s.ieBit v && s.implemented v && decide (s.cpuPri < (s.ipField v).toNat))) ∧
    (s.slot.masked = true → (s.ipField v).toNat ≤ 6 → s.eligible v = false) ∧
    ((s.ipField v).toNat = 7 → s.eligible v = (s.ifBit v && s.ieBit v && s.implemented v && decide (s.cpuPri < 7))) ∧
    (s.ipl = 7 → s.eligible v = false) ∧ (s.ipl3 = true → s.eligible v = false) ∧
    (s.implemented v = false → s.eligible v = false)

/-! ## Taking an exception -/

/-- R205, R206, R86, R212: where the frame lies in ordinary memory, the entry of any source stores PC<15:0> at W15 and SRL, IPL3,
PC<22:16> above it, all as they were before the entry, adds 4 to W15, stores nothing else, and clears no flag: every interrupt
flag, enable and priority, every trap flag and every control register is unchanged, and so are DC, RA, the arithmetic flags, PSV,
the stack limit, TRAPR, CF and SKID. A hard trap that is entered leaves HARDSTALL, and nothing else does (R198). The pushes raise
the stack error trap when an address is faulty or W15 wraps (D20), and nothing else.
The layout of the frame is the spec's general knowledge (R86, decision D8). -/
def Obligations.EntryPushesFrame : Prop :=
  ∀ (s : State) (src : Source), s.FrameInRam → s.wrinh = false →
    (s.enter src).ramWord s.sp = s.pc.extractLsb' 0 16 ∧
    (s.enter src).ramWord (s.sp + 2) = loByte s.sr ++ BitVec.ofBool s.ipl3 ++ s.pc.extractLsb' 16 7 ∧
    (s.enter src).getW 15 = s.sp + 4 ∧ SameOtherW 15 s (s.enter src) ∧
    (∀ a, a ≠ s.sp → a ≠ s.sp + 1 → a ≠ s.sp + 2 → a ≠ s.sp + 3 → (s.enter src).ramByte a = s.ramByte a) ∧
    SameSources s (s.enter src) ∧ SameControl s (s.enter src) ∧
    (∀ b, b < 5 ∨ 8 ≤ b → (s.enter src).sr.getLsbD b = s.sr.getLsbD b) ∧
    (∀ b, b ≠ 3 → (s.enter src).corcon.getLsbD b = s.corcon.getLsbD b) ∧ (s.enter src).splim = s.splim ∧
    (s.enter src).splimEn = s.splimEn ∧ (s.enter src).trapr = s.trapr ∧ (s.enter src).cf = s.cf ∧ (s.enter src).mode = .run ∧
    (s.enter src).pcBeyond = false ∧
    (s.enter src).stallOsc = (s.stallOsc && decide (src ≠ .trap .oscillatorFail)) ∧
    (s.enter src).stallAddr = (s.stallAddr && decide (src ≠ .trap .addressError)) ∧
    (s.enter src).skidStack = s.skidStack ∧ (s.enter src).skidMath = s.skidMath ∧
    (s.enter src).slot.raised = { s.slot.raised with
      stk := s.slot.raised.stk || s.stackFaulty s.sp || s.stackFaulty (s.sp + 2) || decide (0xFFFF < s.sp.toNat + 4) }

/-- R207, R215: an interrupt entry, its frame in ordinary memory, sets IPL<2:0> to IP(v), or to 111 when NSTDIS = 1, and leaves IPL3;
then no source of the same or lower priority is eligible, and none at all when NSTDIS = 1 (R213).
The premise that the frame lies in ordinary memory is the model's: a frame pushed onto the registers changes them first (log
30). -/
def Obligations.InterruptEntrySetsPriority : Prop :=
  ∀ (s : State) (v : Vec), s.FrameInRam → s.wrinh = false → s.ipl3 = false →
    (s.enter (.irq v)).ipl = (if s.nstdis then 7 else s.ipField v) ∧ (s.enter (.irq v)).ipl3 = false ∧
    (∀ u : Vec, (s.ipField u).toNat ≤ (s.ipField v).toNat → (s.enter (.irq v)).eligible u = false) ∧
    (s.nstdis = true → ∀ u : Vec, (s.enter (.irq v)).eligible u = false)

/-- R208: a trap entry makes CPUPRI the trap's priority 15 - t, from every state and whatever NSTDIS is.
That a trap writes its own priority is the spec's inference, and that NSTDIS does not matter its decision D10. -/
def Obligations.TrapEntrySetsPriority : Prop :=
  ∀ (s : State) (x : Trap), (s.enter (.trap x)).cpuPri = 15 - x.number ∧ (s.enter (.trap x)).ipl3 = true ∧
    (s.enter (.trap x)).ipl = BitVec.ofNat 3 (7 - x.number)

/-- R209, R75: the entry of a source, its frame in ordinary memory, loads the PC from the vector of its table index in the table ALTIVT
selects, bits 23 and 0 of the vector dropped.
Dropping bits 23 and 0 is the spec's decision D21. -/
def Obligations.EntryLoadsVector : Prop :=
  ∀ (s : State) (src : Source) (a : ProgAddr), s.FrameInRam → s.wrinh = false →
    a = BitVec.ofNat 23 ((if s.intcon2.getLsbD 15 then 0x000104 else 0x000004) +
      2 * (match src with | .trap x => x.number | .irq v => 8 + v.val)) →
    s.cfg.progImplemented a = true →
    (s.enter src).pc = (s.progWord a).extractLsb' 1 22 ++ 0#1

/-- R172, R214: every entry the arbitration makes raises CPUPRI.
It is the inference R214 draws from R172. -/
def Obligations.EntryRaisesCpuPriority : Prop :=
  ∀ (s : State) (src : Source), s.select = some src → s.cpuPri < (s.enterSlot src).cpuPri

/-- R210 step 6, R204, R198: the arbitration leaves the state alone when nothing is selected; without PREEMPT_BEFORE_FIRST it is the
entry of the selected source, unless a hard trap raised in the cycles of that entry waits for its own, and with it no further
source can be entered when it ends; in either case no hard trap that can be entered is left waiting. An
entry in a slot is the exception taken with a fresh set of marks, then the events of its 4 cycles, then their DISICNT count: the
slot's cycles grow by 4, and DISICNT falls by 4, not below 0, where the frame lies in ordinary memory (R205, V27). A slot without a
conflict ends in that arbitration when the CPU runs after the wake-up of step 5, and else in the sleeping state.
The bound of 16 rounds is the model's (log 25), so is the entry of a hard trap raised by an entry (log 24), and the parameter is
decision D17. -/
def Obligations.ArbitrationEntersWhatIsSelected : Prop :=
  ∀ s : State, (s.select = none → s.arbitrate 16 = s) ∧
    (∀ src, s.select = some src → s.cfg.preemptBeforeFirst = false → (s.enterSlot src).hardTrapWaits = false →
      s.arbitrate 16 = s.enterSlot src) ∧
    (s.cfg.preemptBeforeFirst = true → (s.arbitrate 16).select = none) ∧ (s.arbitrate 16).hardTrapWaits = false ∧
    (∀ (src : Source) (b : State),
      b = { s with wrinh := false, slot := ⟨s.slot.cycles + 4, .none, false, s.slot.masked, []⟩ } →
      s.enterSlot src = ((b.enter src).events 4).count 4 ∧ (s.enterSlot src).slot.cycles = s.slot.cycles + 4 ∧
      (s.FrameInRam → (s.enterSlot src).disicnt.toNat = s.disicnt.toNat - 4)) ∧
    (∀ e u : State, e = s.events s.slot.cycles → e.conflict = false →
      u = { (e.count s.slot.cycles).wake with wrinh := false } →
      (u.mode = .run → s.endSlot = u.arbitrate 16) ∧ (u.mode ≠ .run → s.endSlot = u))

/-! ## Events, conflict, wake-up -/

/-- R175, R222, R223, with R56 and R91: after the events of one cycle the flag of an implemented vector is set if it was, or if its
source requests or it is a pin the device has and the edge its polarity bit selects came; no other flag is. Where the written
value stands against a hardware set (hwSetLast false), a flag to which software wrote 0 in the slot loses the race and stays as
it is; another is set as before.
Sampling once a cycle is the spec's decision D28, that hardware comes last its decision D16, and hwSetLast the model's parameter for
the other order that R56, R91 and U21 allow (log 14). -/
def Obligations.CycleEventsSetFlags : Prop :=
  ∀ (s : State) (c : CycleInput),
    (∀ r b, s.raceLost r b = true ↔ s.cfg.hwSetLast = false ∧ ∃ z, (r, z) ∈ s.slot.written ∧ z.getLsbD b = true) ∧
    (s.cycleEvents c).pinprev = c.pins ∧
    ∀ v : Vec, (s.cycleEvents c).ifBit v = (s.ifBit v || (s.implemented v &&
      !s.raceLost (.ifs ⟨v.val / 16, by omega⟩) (v.val % 16) && (decide (v ∈ c.reqs) ||
      (decide (v.val < s.cfg.nExtInt.val) &&
        (if s.intcon2.getLsbD v.val then s.pinprev.getLsbD v.val && !c.pins.getLsbD v.val
          else !s.pinprev.getLsbD v.val && c.pins.getLsbD v.val)))))

/-- R184, R196 to R198, with R56 and R91: the events of a slot set the flag of every raised trap, and of the oscillator failure when a
clock failure comes with the FSCM enabled; a hard trap joins HARDSTALL, an oscillator failure sets CF, and a soft trap's skid is
between 0 and its maximum. Where the written value stands against a hardware set (hwSetLast false), a trap to whose flag software
wrote 0 in the slot is withdrawn: flag, HARDSTALL and SKID stay, and so does a CF to which software wrote 0.
The bound of the skid is the spec's decision D11, that hardware comes last its decision D16, and the other order, with the withdrawal
of the trap, the model's (log 14). -/
def Obligations.EventsPostRaisedTraps : Prop :=
  ∀ (s t : State) (n : Nat) (osc : Bool) (lost : Trap → Bool), t = s.events n →
    osc = (s.slot.raised.osc || ((takeCycles n s.inputs).1.any CycleInput.clockFail && s.cfg.fscmEnabled)) →
    (∀ x, lost x = true ↔ s.cfg.hwSetLast = false ∧ ∃ z, (Sfr.intcon1, z) ∈ s.slot.written ∧ z.getLsbD x.flagBit = true) →
    t.trapFlag .oscillatorFail = (s.trapFlag .oscillatorFail || (osc && !lost .oscillatorFail)) ∧
    t.trapFlag .addressError = (s.trapFlag .addressError || (s.slot.raised.addr && !lost .addressError)) ∧
    t.trapFlag .stackError = (s.trapFlag .stackError || (s.slot.raised.stk && !lost .stackError)) ∧
    t.trapFlag .mathError = (s.trapFlag .mathError || (s.slot.raised.math && !lost .mathError)) ∧
    t.stallOsc = (s.stallOsc || (osc && !lost .oscillatorFail)) ∧
    t.stallAddr = (s.stallAddr || (s.slot.raised.addr && !lost .addressError)) ∧
    t.cf = (s.cf || (osc && !s.raceLost .osccon 3)) ∧
    (s.raceLost .osccon 3 = true ↔ s.cfg.hwSetLast = false ∧ ∃ z, (Sfr.osccon, z) ∈ s.slot.written ∧ z.getLsbD 3 = true) ∧
    (if s.slot.raised.stk = true ∧ lost .stackError = false then t.skidStack ≤ s.cfg.skidMax
      else t.skidStack = s.skidStack) ∧
    (if s.slot.raised.math = true ∧ lost .mathError = false then t.skidMath ≤ s.cfg.skidMax else t.skidMath = s.skidMath)

/-- R201, R243: a slot that raises an address error while the oscillator failure flag is set, or CPUPRI is 14 or more, after its events,
is a device reset of cause TrapConflict and ends there (R240 says what that leaves); TRAPR is set and nothing of the traps survives.
Reading the processing of a trap from CPUPRI is the spec's decision D12. -/
def Obligations.HardTrapConflictResetsDevice : Prop :=
  ∀ s : State, s.slot.raised.addr = true →
    ((s.events s.slot.cycles).trapFlag .oscillatorFail = true ∨ 14 ≤ s.cpuPri) →
    s.endSlot = (s.events s.slot.cycles).deviceReset .trapConflict ∧
    s.endSlot.pc = 0 ∧ s.endSlot.trapr = true ∧ s.endSlot.intcon1 = 0 ∧ s.endSlot.cpuPri = 0 ∧ s.endSlot.getW 15 = 0x0800 ∧
      s.endSlot.noStall = true ∧ s.endSlot.mode = .run

/-- R219: a sleeping CPU wakes exactly when an implemented source is flagged, enabled and of priority 1 or more, or a trap was raised in
the slot and TRAP_WAKES; neither CPUPRI nor DISI matters. A running CPU runs on.
That a raised trap wakes, and when, is not in the source: it is the spec's decision D26. -/
def Obligations.WakeCondition : Prop :=
  ∀ s : State, s.wake.mode =
    if s.mode = .run ∨
      (∃ v : Vec, s.implemented v = true ∧ s.ifBit v = true ∧ s.ieBit v = true ∧ 1 ≤ (s.ipField v).toNat) ∨
      (s.slot.raised.nonempty = true ∧ s.cfg.trapWakes = true)
    then .run else s.mode

/-- R219 to R221, V50: a sleeping CPU with no trap pending, one cycle of inputs without an effective clock failure (or none) and after
it no flagged and enabled source of a priority above CPUPRI executes nothing and is not interrupted: the PC, W registers, SR and
memory stay, the flags are those of that cycle; it runs again exactly when one of the sources has priority 1 or more.
That a sleeping slot takes one cycle is the spec's decision D26; that an empty input list is a quiet cycle is the model's choice
(log 12). -/
def Obligations.WakeUpWithoutEntryResumes : Prop :=
  ∀ (s s1 : State) (rest : List Input), s.mode ≠ .run →
    (s.inputs = [] ∧ rest = [] ∧ s1 = s.begin ∨
      ∃ c, s.inputs = .cycle c :: rest ∧ (c.clockFail && s.cfg.fscmEnabled) = false ∧ s1 = s.begin.cycleEvents c) →
    (∀ x, s.trapFlag x = false) →
    (∀ v : Vec, s1.ifBit v = true → s1.ieBit v = true → (s1.ipField v).toNat ≤ s.cpuPri) →
    ∃ t, step s = .next t ∧ t.pc = s.pc ∧ t.pcBeyond = s.pcBeyond ∧ SameW s t ∧ SameStatus s t ∧
      SameSources s1 t ∧ SameBytes s t ∧ t.inputs = rest ∧
      (t.mode = .run ↔
        ∃ v : Vec, s1.implemented v = true ∧ s1.ifBit v = true ∧ s1.ieBit v = true ∧ 1 ≤ (s1.ipField v).toNat)

/-! ## Instructions outside the opcode table -/

/-- R150, R216: the OR of 0xE0 into SRL makes IPL<2:0> 111 and keeps every other bit of SR, and changes nothing while NSTDIS = 1.
The flags of the OR itself are left as they are: the source does not say them (R150). -/
def Obligations.OrIntoSrlDisablesUserInterrupts : Prop :=
  ∀ s : State, SameSystem s s.orIplIntoSrl ∧ SameW s s.orIplIntoSrl ∧ SameBytes s s.orIplIntoSrl ∧
    (s.nstdis = true → s.orIplIntoSrl.sr = s.sr) ∧
    (s.nstdis = false → s.orIplIntoSrl.ipl = 7 ∧ 7 ≤ s.orIplIntoSrl.cpuPri ∧
      ∀ b, b < 5 ∨ 8 ≤ b → s.orIplIntoSrl.sr.getLsbD b = s.sr.getLsbD b)

/-- R159 with R9, R148, R149, R185 to R195: whatever a CPU_STEP answers for an instruction outside the opcode table, performing the
answer keeps the contract of R159, items 1 to 3 and 5 to 7; it completes (item 4) unless it makes one of the writes the model
refuses. So it raises AddressError for the address errors of the spec, an odd indirect bit address among them, and MathError for a
division by zero.
The form of the answer is the model's choice (log 26), RA a reading of R159 (log 39). -/
def Obligations.ExternalAnswersKeepContract : Prop :=
  ∀ (a : CpuAnswer) (s : State),
    (∀ t, s.runAnswer a = .ok t → CpuStepContract a s t) ∧
    ((∃ t, s.runAnswer a = .ok t) ∨ s.runAnswer a = .error .splimByteWrite ∨ s.runAnswer a = .error .rconOtherUse ∨
      s.runAnswer a = .error .oscconOtherUse) ∧
    (∀ t ea, s.runAnswer a = .ok t → CpuAction.indirectBit (.plain ea) ∈ a.actions → ea.getLsbD 0 = true →
      t.slot.raised.addr = true)
end

