-- ==== Sys2Proof/Laws/State.lean ====
section
/-!
SUPPORT. One lemma per field per update of the state: what each named update leaves as it was and what it writes, all true by
unfolding that update alone, so that no later proof unfolds it.
-/

namespace Sys2Proof.Machine

variable (s : State)

/-! ### raise -/

@[simp] theorem raise_cfg (t : Trap) : (s.raise t).cfg = s.cfg := rfl
@[simp] theorem raise_pc (t : Trap) : (s.raise t).pc = s.pc := rfl
@[simp] theorem raise_pcBeyond (t : Trap) : (s.raise t).pcBeyond = s.pcBeyond := rfl
@[simp] theorem raise_w (t : Trap) : (s.raise t).w = s.w := rfl
@[simp] theorem raise_splim (t : Trap) : (s.raise t).splim = s.splim := rfl
@[simp] theorem raise_splimEn (t : Trap) : (s.raise t).splimEn = s.splimEn := rfl
@[simp] theorem raise_sr (t : Trap) : (s.raise t).sr = s.sr := rfl
@[simp] theorem raise_corcon (t : Trap) : (s.raise t).corcon = s.corcon := rfl
@[simp] theorem raise_intcon1 (t : Trap) : (s.raise t).intcon1 = s.intcon1 := rfl
@[simp] theorem raise_intcon2 (t : Trap) : (s.raise t).intcon2 = s.intcon2 := rfl
@[simp] theorem raise_ifs (t : Trap) : (s.raise t).ifs = s.ifs := rfl
@[simp] theorem raise_iec (t : Trap) : (s.raise t).iec = s.iec := rfl
@[simp] theorem raise_ipc (t : Trap) : (s.raise t).ipc = s.ipc := rfl
@[simp] theorem raise_disicnt (t : Trap) : (s.raise t).disicnt = s.disicnt := rfl
@[simp] theorem raise_trapr (t : Trap) : (s.raise t).trapr = s.trapr := rfl
@[simp] theorem raise_cf (t : Trap) : (s.raise t).cf = s.cf := rfl
@[simp] theorem raise_pcbuf (t : Trap) : (s.raise t).pcbuf = s.pcbuf := rfl
@[simp] theorem raise_srlbuf (t : Trap) : (s.raise t).srlbuf = s.srlbuf := rfl
@[simp] theorem raise_mode (t : Trap) : (s.raise t).mode = s.mode := rfl
@[simp] theorem raise_skidStack (t : Trap) : (s.raise t).skidStack = s.skidStack := rfl
@[simp] theorem raise_skidMath (t : Trap) : (s.raise t).skidMath = s.skidMath := rfl
@[simp] theorem raise_stallOsc (t : Trap) : (s.raise t).stallOsc = s.stallOsc := rfl
@[simp] theorem raise_stallAddr (t : Trap) : (s.raise t).stallAddr = s.stallAddr := rfl
@[simp] theorem raise_wrinh (t : Trap) : (s.raise t).wrinh = (s.wrinh || t == .addressError) := rfl
@[simp] theorem raise_pinprev (t : Trap) : (s.raise t).pinprev = s.pinprev := rfl
@[simp] theorem raise_mem (t : Trap) : (s.raise t).mem = s.mem := rfl
@[simp] theorem raise_prog (t : Trap) : (s.raise t).prog = s.prog := rfl
@[simp] theorem raise_slot (t : Trap) : (s.raise t).slot = { s.slot with raised := s.slot.raised.insert t } := rfl
@[simp] theorem raise_inputs (t : Trap) : (s.raise t).inputs = s.inputs := rfl
@[simp] theorem raise_freeCount (t : Trap) : (s.raise t).freeCount = s.freeCount := rfl
@[simp] theorem raise_epoch (t : Trap) : (s.raise t).epoch = s.epoch := rfl

/-! ### raiseAll -/

@[simp] theorem raiseAll_cfg (r : TrapSet) : (s.raiseAll r).cfg = s.cfg := rfl
@[simp] theorem raiseAll_pc (r : TrapSet) : (s.raiseAll r).pc = s.pc := rfl
@[simp] theorem raiseAll_pcBeyond (r : TrapSet) : (s.raiseAll r).pcBeyond = s.pcBeyond := rfl
@[simp] theorem raiseAll_w (r : TrapSet) : (s.raiseAll r).w = s.w := rfl
@[simp] theorem raiseAll_splim (r : TrapSet) : (s.raiseAll r).splim = s.splim := rfl
@[simp] theorem raiseAll_splimEn (r : TrapSet) : (s.raiseAll r).splimEn = s.splimEn := rfl
@[simp] theorem raiseAll_sr (r : TrapSet) : (s.raiseAll r).sr = s.sr := rfl
@[simp] theorem raiseAll_corcon (r : TrapSet) : (s.raiseAll r).corcon = s.corcon := rfl
@[simp] theorem raiseAll_intcon1 (r : TrapSet) : (s.raiseAll r).intcon1 = s.intcon1 := rfl
@[simp] theorem raiseAll_intcon2 (r : TrapSet) : (s.raiseAll r).intcon2 = s.intcon2 := rfl
@[simp] theorem raiseAll_ifs (r : TrapSet) : (s.raiseAll r).ifs = s.ifs := rfl
@[simp] theorem raiseAll_iec (r : TrapSet) : (s.raiseAll r).iec = s.iec := rfl
@[simp] theorem raiseAll_ipc (r : TrapSet) : (s.raiseAll r).ipc = s.ipc := rfl
@[simp] theorem raiseAll_disicnt (r : TrapSet) : (s.raiseAll r).disicnt = s.disicnt := rfl
@[simp] theorem raiseAll_trapr (r : TrapSet) : (s.raiseAll r).trapr = s.trapr := rfl
@[simp] theorem raiseAll_cf (r : TrapSet) : (s.raiseAll r).cf = s.cf := rfl
@[simp] theorem raiseAll_pcbuf (r : TrapSet) : (s.raiseAll r).pcbuf = s.pcbuf := rfl
@[simp] theorem raiseAll_srlbuf (r : TrapSet) : (s.raiseAll r).srlbuf = s.srlbuf := rfl
@[simp] theorem raiseAll_mode (r : TrapSet) : (s.raiseAll r).mode = s.mode := rfl
@[simp] theorem raiseAll_skidStack (r : TrapSet) : (s.raiseAll r).skidStack = s.skidStack := rfl
@[simp] theorem raiseAll_skidMath (r : TrapSet) : (s.raiseAll r).skidMath = s.skidMath := rfl
@[simp] theorem raiseAll_stallOsc (r : TrapSet) : (s.raiseAll r).stallOsc = s.stallOsc := rfl
@[simp] theorem raiseAll_stallAddr (r : TrapSet) : (s.raiseAll r).stallAddr = s.stallAddr := rfl
@[simp] theorem raiseAll_wrinh (r : TrapSet) : (s.raiseAll r).wrinh = s.wrinh := rfl
@[simp] theorem raiseAll_pinprev (r : TrapSet) : (s.raiseAll r).pinprev = s.pinprev := rfl
@[simp] theorem raiseAll_mem (r : TrapSet) : (s.raiseAll r).mem = s.mem := rfl
@[simp] theorem raiseAll_prog (r : TrapSet) : (s.raiseAll r).prog = s.prog := rfl
@[simp] theorem raiseAll_slot (r : TrapSet) : (s.raiseAll r).slot = { s.slot with raised := s.slot.raised.union r } := rfl
@[simp] theorem raiseAll_inputs (r : TrapSet) : (s.raiseAll r).inputs = s.inputs := rfl
@[simp] theorem raiseAll_freeCount (r : TrapSet) : (s.raiseAll r).freeCount = s.freeCount := rfl
@[simp] theorem raiseAll_epoch (r : TrapSet) : (s.raiseAll r).epoch = s.epoch := rfl

/-! ### drawWord_snd -/

@[simp] theorem drawWord_snd_cfg : s.drawWord.2.cfg = s.cfg := rfl
@[simp] theorem drawWord_snd_pc : s.drawWord.2.pc = s.pc := rfl
@[simp] theorem drawWord_snd_pcBeyond : s.drawWord.2.pcBeyond = s.pcBeyond := rfl
@[simp] theorem drawWord_snd_w : s.drawWord.2.w = s.w := rfl
@[simp] theorem drawWord_snd_splim : s.drawWord.2.splim = s.splim := rfl
@[simp] theorem drawWord_snd_splimEn : s.drawWord.2.splimEn = s.splimEn := rfl
@[simp] theorem drawWord_snd_sr : s.drawWord.2.sr = s.sr := rfl
@[simp] theorem drawWord_snd_corcon : s.drawWord.2.corcon = s.corcon := rfl
@[simp] theorem drawWord_snd_intcon1 : s.drawWord.2.intcon1 = s.intcon1 := rfl
@[simp] theorem drawWord_snd_intcon2 : s.drawWord.2.intcon2 = s.intcon2 := rfl
@[simp] theorem drawWord_snd_ifs : s.drawWord.2.ifs = s.ifs := rfl
@[simp] theorem drawWord_snd_iec : s.drawWord.2.iec = s.iec := rfl
@[simp] theorem drawWord_snd_ipc : s.drawWord.2.ipc = s.ipc := rfl
@[simp] theorem drawWord_snd_disicnt : s.drawWord.2.disicnt = s.disicnt := rfl
@[simp] theorem drawWord_snd_trapr : s.drawWord.2.trapr = s.trapr := rfl
@[simp] theorem drawWord_snd_cf : s.drawWord.2.cf = s.cf := rfl
@[simp] theorem drawWord_snd_pcbuf : s.drawWord.2.pcbuf = s.pcbuf := rfl
@[simp] theorem drawWord_snd_srlbuf : s.drawWord.2.srlbuf = s.srlbuf := rfl
@[simp] theorem drawWord_snd_mode : s.drawWord.2.mode = s.mode := rfl
@[simp] theorem drawWord_snd_skidStack : s.drawWord.2.skidStack = s.skidStack := rfl
@[simp] theorem drawWord_snd_skidMath : s.drawWord.2.skidMath = s.skidMath := rfl
@[simp] theorem drawWord_snd_stallOsc : s.drawWord.2.stallOsc = s.stallOsc := rfl
@[simp] theorem drawWord_snd_stallAddr : s.drawWord.2.stallAddr = s.stallAddr := rfl
@[simp] theorem drawWord_snd_wrinh : s.drawWord.2.wrinh = s.wrinh := rfl
@[simp] theorem drawWord_snd_pinprev : s.drawWord.2.pinprev = s.pinprev := rfl
@[simp] theorem drawWord_snd_mem : s.drawWord.2.mem = s.mem := rfl
@[simp] theorem drawWord_snd_prog : s.drawWord.2.prog = s.prog := rfl
@[simp] theorem drawWord_snd_slot : s.drawWord.2.slot = s.slot := rfl
@[simp] theorem drawWord_snd_inputs : s.drawWord.2.inputs = s.inputs := rfl
@[simp] theorem drawWord_snd_freeCount : s.drawWord.2.freeCount = s.freeCount + 1 := rfl
@[simp] theorem drawWord_snd_epoch : s.drawWord.2.epoch = s.epoch := rfl

/-! ### putW -/

@[simp] theorem putW_cfg (n : WReg) (v : Word) : (s.putW n v).cfg = s.cfg := rfl
@[simp] theorem putW_pc (n : WReg) (v : Word) : (s.putW n v).pc = s.pc := rfl
@[simp] theorem putW_pcBeyond (n : WReg) (v : Word) : (s.putW n v).pcBeyond = s.pcBeyond := rfl
@[simp] theorem putW_w (n : WReg) (v : Word) : (s.putW n v).w = s.w.set n (if n = 15 then v &&& 0xFFFE else v) := rfl
@[simp] theorem putW_splim (n : WReg) (v : Word) : (s.putW n v).splim = s.splim := rfl
@[simp] theorem putW_splimEn (n : WReg) (v : Word) : (s.putW n v).splimEn = s.splimEn := rfl
@[simp] theorem putW_sr (n : WReg) (v : Word) : (s.putW n v).sr = s.sr := rfl
@[simp] theorem putW_corcon (n : WReg) (v : Word) : (s.putW n v).corcon = s.corcon := rfl
@[simp] theorem putW_intcon1 (n : WReg) (v : Word) : (s.putW n v).intcon1 = s.intcon1 := rfl
@[simp] theorem putW_intcon2 (n : WReg) (v : Word) : (s.putW n v).intcon2 = s.intcon2 := rfl
@[simp] theorem putW_ifs (n : WReg) (v : Word) : (s.putW n v).ifs = s.ifs := rfl
@[simp] theorem putW_iec (n : WReg) (v : Word) : (s.putW n v).iec = s.iec := rfl
@[simp] theorem putW_ipc (n : WReg) (v : Word) : (s.putW n v).ipc = s.ipc := rfl
@[simp] theorem putW_disicnt (n : WReg) (v : Word) : (s.putW n v).disicnt = s.disicnt := rfl
@[simp] theorem putW_trapr (n : WReg) (v : Word) : (s.putW n v).trapr = s.trapr := rfl
@[simp] theorem putW_cf (n : WReg) (v : Word) : (s.putW n v).cf = s.cf := rfl
@[simp] theorem putW_pcbuf (n : WReg) (v : Word) : (s.putW n v).pcbuf = s.pcbuf := rfl
@[simp] theorem putW_srlbuf (n : WReg) (v : Word) : (s.putW n v).srlbuf = s.srlbuf := rfl
@[simp] theorem putW_mode (n : WReg) (v : Word) : (s.putW n v).mode = s.mode := rfl
@[simp] theorem putW_skidStack (n : WReg) (v : Word) : (s.putW n v).skidStack = s.skidStack := rfl
@[simp] theorem putW_skidMath (n : WReg) (v : Word) : (s.putW n v).skidMath = s.skidMath := rfl
@[simp] theorem putW_stallOsc (n : WReg) (v : Word) : (s.putW n v).stallOsc = s.stallOsc := rfl
@[simp] theorem putW_stallAddr (n : WReg) (v : Word) : (s.putW n v).stallAddr = s.stallAddr := rfl
@[simp] theorem putW_wrinh (n : WReg) (v : Word) : (s.putW n v).wrinh = s.wrinh := rfl
@[simp] theorem putW_pinprev (n : WReg) (v : Word) : (s.putW n v).pinprev = s.pinprev := rfl
@[simp] theorem putW_mem (n : WReg) (v : Word) : (s.putW n v).mem = s.mem := rfl
@[simp] theorem putW_prog (n : WReg) (v : Word) : (s.putW n v).prog = s.prog := rfl
@[simp] theorem putW_slot (n : WReg) (v : Word) : (s.putW n v).slot = s.slot := rfl
@[simp] theorem putW_inputs (n : WReg) (v : Word) : (s.putW n v).inputs = s.inputs := rfl
@[simp] theorem putW_freeCount (n : WReg) (v : Word) : (s.putW n v).freeCount = s.freeCount := rfl
@[simp] theorem putW_epoch (n : WReg) (v : Word) : (s.putW n v).epoch = s.epoch := rfl

/-! ### setDisiBit -/

@[simp] theorem setDisiBit_cfg (b : Bool) : (s.setDisiBit b).cfg = s.cfg := rfl
@[simp] theorem setDisiBit_pc (b : Bool) : (s.setDisiBit b).pc = s.pc := rfl
@[simp] theorem setDisiBit_pcBeyond (b : Bool) : (s.setDisiBit b).pcBeyond = s.pcBeyond := rfl
@[simp] theorem setDisiBit_w (b : Bool) : (s.setDisiBit b).w = s.w := rfl
@[simp] theorem setDisiBit_splim (b : Bool) : (s.setDisiBit b).splim = s.splim := rfl
@[simp] theorem setDisiBit_splimEn (b : Bool) : (s.setDisiBit b).splimEn = s.splimEn := rfl
@[simp] theorem setDisiBit_sr (b : Bool) : (s.setDisiBit b).sr = s.sr := rfl
@[simp] theorem setDisiBit_corcon (b : Bool) : (s.setDisiBit b).corcon = s.corcon := rfl
@[simp] theorem setDisiBit_intcon1 (b : Bool) : (s.setDisiBit b).intcon1 = s.intcon1 := rfl
@[simp] theorem setDisiBit_intcon2 (b : Bool) : (s.setDisiBit b).intcon2 = setBit s.intcon2 14 b := rfl
@[simp] theorem setDisiBit_ifs (b : Bool) : (s.setDisiBit b).ifs = s.ifs := rfl
@[simp] theorem setDisiBit_iec (b : Bool) : (s.setDisiBit b).iec = s.iec := rfl
@[simp] theorem setDisiBit_ipc (b : Bool) : (s.setDisiBit b).ipc = s.ipc := rfl
@[simp] theorem setDisiBit_disicnt (b : Bool) : (s.setDisiBit b).disicnt = s.disicnt := rfl
@[simp] theorem setDisiBit_trapr (b : Bool) : (s.setDisiBit b).trapr = s.trapr := rfl
@[simp] theorem setDisiBit_cf (b : Bool) : (s.setDisiBit b).cf = s.cf := rfl
@[simp] theorem setDisiBit_pcbuf (b : Bool) : (s.setDisiBit b).pcbuf = s.pcbuf := rfl
@[simp] theorem setDisiBit_srlbuf (b : Bool) : (s.setDisiBit b).srlbuf = s.srlbuf := rfl
@[simp] theorem setDisiBit_mode (b : Bool) : (s.setDisiBit b).mode = s.mode := rfl
@[simp] theorem setDisiBit_skidStack (b : Bool) : (s.setDisiBit b).skidStack = s.skidStack := rfl
@[simp] theorem setDisiBit_skidMath (b : Bool) : (s.setDisiBit b).skidMath = s.skidMath := rfl
@[simp] theorem setDisiBit_stallOsc (b : Bool) : (s.setDisiBit b).stallOsc = s.stallOsc := rfl
@[simp] theorem setDisiBit_stallAddr (b : Bool) : (s.setDisiBit b).stallAddr = s.stallAddr := rfl
@[simp] theorem setDisiBit_wrinh (b : Bool) : (s.setDisiBit b).wrinh = s.wrinh := rfl
@[simp] theorem setDisiBit_pinprev (b : Bool) : (s.setDisiBit b).pinprev = s.pinprev := rfl
@[simp] theorem setDisiBit_mem (b : Bool) : (s.setDisiBit b).mem = s.mem := rfl
@[simp] theorem setDisiBit_prog (b : Bool) : (s.setDisiBit b).prog = s.prog := rfl
@[simp] theorem setDisiBit_slot (b : Bool) : (s.setDisiBit b).slot = s.slot := rfl
@[simp] theorem setDisiBit_inputs (b : Bool) : (s.setDisiBit b).inputs = s.inputs := rfl
@[simp] theorem setDisiBit_freeCount (b : Bool) : (s.setDisiBit b).freeCount = s.freeCount := rfl
@[simp] theorem setDisiBit_epoch (b : Bool) : (s.setDisiBit b).epoch = s.epoch := rfl

/-! ### noteWrite -/

@[simp] theorem noteWrite_cfg (r : Sfr) (m : Word) : (s.noteWrite r m).cfg = s.cfg := rfl
@[simp] theorem noteWrite_pc (r : Sfr) (m : Word) : (s.noteWrite r m).pc = s.pc := rfl
@[simp] theorem noteWrite_pcBeyond (r : Sfr) (m : Word) : (s.noteWrite r m).pcBeyond = s.pcBeyond := rfl
@[simp] theorem noteWrite_w (r : Sfr) (m : Word) : (s.noteWrite r m).w = s.w := rfl
@[simp] theorem noteWrite_splim (r : Sfr) (m : Word) : (s.noteWrite r m).splim = s.splim := rfl
@[simp] theorem noteWrite_splimEn (r : Sfr) (m : Word) : (s.noteWrite r m).splimEn = s.splimEn := rfl
@[simp] theorem noteWrite_sr (r : Sfr) (m : Word) : (s.noteWrite r m).sr = s.sr := rfl
@[simp] theorem noteWrite_corcon (r : Sfr) (m : Word) : (s.noteWrite r m).corcon = s.corcon := rfl
@[simp] theorem noteWrite_intcon1 (r : Sfr) (m : Word) : (s.noteWrite r m).intcon1 = s.intcon1 := rfl
@[simp] theorem noteWrite_intcon2 (r : Sfr) (m : Word) : (s.noteWrite r m).intcon2 = s.intcon2 := rfl
@[simp] theorem noteWrite_ifs (r : Sfr) (m : Word) : (s.noteWrite r m).ifs = s.ifs := rfl
@[simp] theorem noteWrite_iec (r : Sfr) (m : Word) : (s.noteWrite r m).iec = s.iec := rfl
@[simp] theorem noteWrite_ipc (r : Sfr) (m : Word) : (s.noteWrite r m).ipc = s.ipc := rfl
@[simp] theorem noteWrite_disicnt (r : Sfr) (m : Word) : (s.noteWrite r m).disicnt = s.disicnt := rfl
@[simp] theorem noteWrite_trapr (r : Sfr) (m : Word) : (s.noteWrite r m).trapr = s.trapr := rfl
@[simp] theorem noteWrite_cf (r : Sfr) (m : Word) : (s.noteWrite r m).cf = s.cf := rfl
@[simp] theorem noteWrite_pcbuf (r : Sfr) (m : Word) : (s.noteWrite r m).pcbuf = s.pcbuf := rfl
@[simp] theorem noteWrite_srlbuf (r : Sfr) (m : Word) : (s.noteWrite r m).srlbuf = s.srlbuf := rfl
@[simp] theorem noteWrite_mode (r : Sfr) (m : Word) : (s.noteWrite r m).mode = s.mode := rfl
@[simp] theorem noteWrite_skidStack (r : Sfr) (m : Word) : (s.noteWrite r m).skidStack = s.skidStack := rfl
@[simp] theorem noteWrite_skidMath (r : Sfr) (m : Word) : (s.noteWrite r m).skidMath = s.skidMath := rfl
@[simp] theorem noteWrite_stallOsc (r : Sfr) (m : Word) : (s.noteWrite r m).stallOsc = s.stallOsc := rfl
@[simp] theorem noteWrite_stallAddr (r : Sfr) (m : Word) : (s.noteWrite r m).stallAddr = s.stallAddr := rfl
@[simp] theorem noteWrite_wrinh (r : Sfr) (m : Word) : (s.noteWrite r m).wrinh = s.wrinh := rfl
@[simp] theorem noteWrite_pinprev (r : Sfr) (m : Word) : (s.noteWrite r m).pinprev = s.pinprev := rfl
@[simp] theorem noteWrite_mem (r : Sfr) (m : Word) : (s.noteWrite r m).mem = s.mem := rfl
@[simp] theorem noteWrite_prog (r : Sfr) (m : Word) : (s.noteWrite r m).prog = s.prog := rfl
@[simp] theorem noteWrite_slot (r : Sfr) (m : Word) : (s.noteWrite r m).slot = { s.slot with written := (r, m) :: s.slot.written } := rfl
@[simp] theorem noteWrite_inputs (r : Sfr) (m : Word) : (s.noteWrite r m).inputs = s.inputs := rfl
@[simp] theorem noteWrite_freeCount (r : Sfr) (m : Word) : (s.noteWrite r m).freeCount = s.freeCount := rfl
@[simp] theorem noteWrite_epoch (r : Sfr) (m : Word) : (s.noteWrite r m).epoch = s.epoch := rfl

/-! ### putRamByte -/

@[simp] theorem putRamByte_cfg (a : DataAddr) (b : Byte) : (s.putRamByte a b).cfg = s.cfg := rfl
@[simp] theorem putRamByte_pc (a : DataAddr) (b : Byte) : (s.putRamByte a b).pc = s.pc := rfl
@[simp] theorem putRamByte_pcBeyond (a : DataAddr) (b : Byte) : (s.putRamByte a b).pcBeyond = s.pcBeyond := rfl
@[simp] theorem putRamByte_w (a : DataAddr) (b : Byte) : (s.putRamByte a b).w = s.w := rfl
@[simp] theorem putRamByte_splim (a : DataAddr) (b : Byte) : (s.putRamByte a b).splim = s.splim := rfl
@[simp] theorem putRamByte_splimEn (a : DataAddr) (b : Byte) : (s.putRamByte a b).splimEn = s.splimEn := rfl
@[simp] theorem putRamByte_sr (a : DataAddr) (b : Byte) : (s.putRamByte a b).sr = s.sr := rfl
@[simp] theorem putRamByte_corcon (a : DataAddr) (b : Byte) : (s.putRamByte a b).corcon = s.corcon := rfl
@[simp] theorem putRamByte_intcon1 (a : DataAddr) (b : Byte) : (s.putRamByte a b).intcon1 = s.intcon1 := rfl
@[simp] theorem putRamByte_intcon2 (a : DataAddr) (b : Byte) : (s.putRamByte a b).intcon2 = s.intcon2 := rfl
@[simp] theorem putRamByte_ifs (a : DataAddr) (b : Byte) : (s.putRamByte a b).ifs = s.ifs := rfl
@[simp] theorem putRamByte_iec (a : DataAddr) (b : Byte) : (s.putRamByte a b).iec = s.iec := rfl
@[simp] theorem putRamByte_ipc (a : DataAddr) (b : Byte) : (s.putRamByte a b).ipc = s.ipc := rfl
@[simp] theorem putRamByte_disicnt (a : DataAddr) (b : Byte) : (s.putRamByte a b).disicnt = s.disicnt := rfl
@[simp] theorem putRamByte_trapr (a : DataAddr) (b : Byte) : (s.putRamByte a b).trapr = s.trapr := rfl
@[simp] theorem putRamByte_cf (a : DataAddr) (b : Byte) : (s.putRamByte a b).cf = s.cf := rfl
@[simp] theorem putRamByte_pcbuf (a : DataAddr) (b : Byte) : (s.putRamByte a b).pcbuf = s.pcbuf := rfl
@[simp] theorem putRamByte_srlbuf (a : DataAddr) (b : Byte) : (s.putRamByte a b).srlbuf = s.srlbuf := rfl
@[simp] theorem putRamByte_mode (a : DataAddr) (b : Byte) : (s.putRamByte a b).mode = s.mode := rfl
@[simp] theorem putRamByte_skidStack (a : DataAddr) (b : Byte) : (s.putRamByte a b).skidStack = s.skidStack := rfl
@[simp] theorem putRamByte_skidMath (a : DataAddr) (b : Byte) : (s.putRamByte a b).skidMath = s.skidMath := rfl
@[simp] theorem putRamByte_stallOsc (a : DataAddr) (b : Byte) : (s.putRamByte a b).stallOsc = s.stallOsc := rfl
@[simp] theorem putRamByte_stallAddr (a : DataAddr) (b : Byte) : (s.putRamByte a b).stallAddr = s.stallAddr := rfl
@[simp] theorem putRamByte_wrinh (a : DataAddr) (b : Byte) : (s.putRamByte a b).wrinh = s.wrinh := rfl
@[simp] theorem putRamByte_pinprev (a : DataAddr) (b : Byte) : (s.putRamByte a b).pinprev = s.pinprev := rfl
@[simp] theorem putRamByte_mem (a : DataAddr) (b : Byte) : (s.putRamByte a b).mem = cellWrite s.mem a.toNat b := rfl
@[simp] theorem putRamByte_prog (a : DataAddr) (b : Byte) : (s.putRamByte a b).prog = s.prog := rfl
@[simp] theorem putRamByte_slot (a : DataAddr) (b : Byte) : (s.putRamByte a b).slot = s.slot := rfl
@[simp] theorem putRamByte_inputs (a : DataAddr) (b : Byte) : (s.putRamByte a b).inputs = s.inputs := rfl
@[simp] theorem putRamByte_freeCount (a : DataAddr) (b : Byte) : (s.putRamByte a b).freeCount = s.freeCount := rfl
@[simp] theorem putRamByte_epoch (a : DataAddr) (b : Byte) : (s.putRamByte a b).epoch = s.epoch := rfl

/-! ### writeDisicnt -/

@[simp] theorem writeDisicnt_cfg (v : BitVec 14) : (s.writeDisicnt v).cfg = s.cfg := rfl
@[simp] theorem writeDisicnt_pc (v : BitVec 14) : (s.writeDisicnt v).pc = s.pc := rfl
@[simp] theorem writeDisicnt_pcBeyond (v : BitVec 14) : (s.writeDisicnt v).pcBeyond = s.pcBeyond := rfl
@[simp] theorem writeDisicnt_w (v : BitVec 14) : (s.writeDisicnt v).w = s.w := rfl
@[simp] theorem writeDisicnt_splim (v : BitVec 14) : (s.writeDisicnt v).splim = s.splim := rfl
@[simp] theorem writeDisicnt_splimEn (v : BitVec 14) : (s.writeDisicnt v).splimEn = s.splimEn := rfl
@[simp] theorem writeDisicnt_sr (v : BitVec 14) : (s.writeDisicnt v).sr = s.sr := rfl
@[simp] theorem writeDisicnt_corcon (v : BitVec 14) : (s.writeDisicnt v).corcon = s.corcon := rfl
@[simp] theorem writeDisicnt_intcon1 (v : BitVec 14) : (s.writeDisicnt v).intcon1 = s.intcon1 := rfl
@[simp] theorem writeDisicnt_intcon2 (v : BitVec 14) : (s.writeDisicnt v).intcon2 = if s.disiBit && v == 0 then setBit s.intcon2 14 false else s.intcon2 := rfl
@[simp] theorem writeDisicnt_ifs (v : BitVec 14) : (s.writeDisicnt v).ifs = s.ifs := rfl
@[simp] theorem writeDisicnt_iec (v : BitVec 14) : (s.writeDisicnt v).iec = s.iec := rfl
@[simp] theorem writeDisicnt_ipc (v : BitVec 14) : (s.writeDisicnt v).ipc = s.ipc := rfl
@[simp] theorem writeDisicnt_disicnt (v : BitVec 14) : (s.writeDisicnt v).disicnt = v := rfl
@[simp] theorem writeDisicnt_trapr (v : BitVec 14) : (s.writeDisicnt v).trapr = s.trapr := rfl
@[simp] theorem writeDisicnt_cf (v : BitVec 14) : (s.writeDisicnt v).cf = s.cf := rfl
@[simp] theorem writeDisicnt_pcbuf (v : BitVec 14) : (s.writeDisicnt v).pcbuf = s.pcbuf := rfl
@[simp] theorem writeDisicnt_srlbuf (v : BitVec 14) : (s.writeDisicnt v).srlbuf = s.srlbuf := rfl
@[simp] theorem writeDisicnt_mode (v : BitVec 14) : (s.writeDisicnt v).mode = s.mode := rfl
@[simp] theorem writeDisicnt_skidStack (v : BitVec 14) : (s.writeDisicnt v).skidStack = s.skidStack := rfl
@[simp] theorem writeDisicnt_skidMath (v : BitVec 14) : (s.writeDisicnt v).skidMath = s.skidMath := rfl
@[simp] theorem writeDisicnt_stallOsc (v : BitVec 14) : (s.writeDisicnt v).stallOsc = s.stallOsc := rfl
@[simp] theorem writeDisicnt_stallAddr (v : BitVec 14) : (s.writeDisicnt v).stallAddr = s.stallAddr := rfl
@[simp] theorem writeDisicnt_wrinh (v : BitVec 14) : (s.writeDisicnt v).wrinh = s.wrinh := rfl
@[simp] theorem writeDisicnt_pinprev (v : BitVec 14) : (s.writeDisicnt v).pinprev = s.pinprev := rfl
@[simp] theorem writeDisicnt_mem (v : BitVec 14) : (s.writeDisicnt v).mem = s.mem := rfl
@[simp] theorem writeDisicnt_prog (v : BitVec 14) : (s.writeDisicnt v).prog = s.prog := rfl
@[simp] theorem writeDisicnt_slot (v : BitVec 14) : (s.writeDisicnt v).slot = s.slot := rfl
@[simp] theorem writeDisicnt_inputs (v : BitVec 14) : (s.writeDisicnt v).inputs = s.inputs := rfl
@[simp] theorem writeDisicnt_freeCount (v : BitVec 14) : (s.writeDisicnt v).freeCount = s.freeCount := rfl
@[simp] theorem writeDisicnt_epoch (v : BitVec 14) : (s.writeDisicnt v).epoch = s.epoch := rfl

/-! ### writeIntcon1 -/

@[simp] theorem writeIntcon1_cfg (v : Word) : (s.writeIntcon1 v).cfg = s.cfg := rfl
@[simp] theorem writeIntcon1_pc (v : Word) : (s.writeIntcon1 v).pc = s.pc := rfl
@[simp] theorem writeIntcon1_pcBeyond (v : Word) : (s.writeIntcon1 v).pcBeyond = s.pcBeyond := rfl
@[simp] theorem writeIntcon1_w (v : Word) : (s.writeIntcon1 v).w = s.w := rfl
@[simp] theorem writeIntcon1_splim (v : Word) : (s.writeIntcon1 v).splim = s.splim := rfl
@[simp] theorem writeIntcon1_splimEn (v : Word) : (s.writeIntcon1 v).splimEn = s.splimEn := rfl
@[simp] theorem writeIntcon1_sr (v : Word) : (s.writeIntcon1 v).sr = s.sr := rfl
@[simp] theorem writeIntcon1_corcon (v : Word) : (s.writeIntcon1 v).corcon = s.corcon := rfl
@[simp] theorem writeIntcon1_intcon1 (v : Word) : (s.writeIntcon1 v).intcon1 = (v &&& 0x8000) ||| (s.intcon1 &&& v &&& 0x001E) ||| s.trapFlagsSetBy v := rfl
@[simp] theorem writeIntcon1_intcon2 (v : Word) : (s.writeIntcon1 v).intcon2 = s.intcon2 := rfl
@[simp] theorem writeIntcon1_ifs (v : Word) : (s.writeIntcon1 v).ifs = s.ifs := rfl
@[simp] theorem writeIntcon1_iec (v : Word) : (s.writeIntcon1 v).iec = s.iec := rfl
@[simp] theorem writeIntcon1_ipc (v : Word) : (s.writeIntcon1 v).ipc = s.ipc := rfl
@[simp] theorem writeIntcon1_disicnt (v : Word) : (s.writeIntcon1 v).disicnt = s.disicnt := rfl
@[simp] theorem writeIntcon1_trapr (v : Word) : (s.writeIntcon1 v).trapr = s.trapr := rfl
@[simp] theorem writeIntcon1_cf (v : Word) : (s.writeIntcon1 v).cf = s.cf := rfl
@[simp] theorem writeIntcon1_pcbuf (v : Word) : (s.writeIntcon1 v).pcbuf = s.pcbuf := rfl
@[simp] theorem writeIntcon1_srlbuf (v : Word) : (s.writeIntcon1 v).srlbuf = s.srlbuf := rfl
@[simp] theorem writeIntcon1_mode (v : Word) : (s.writeIntcon1 v).mode = s.mode := rfl
@[simp] theorem writeIntcon1_skidStack (v : Word) : (s.writeIntcon1 v).skidStack = s.skidStack := rfl
@[simp] theorem writeIntcon1_skidMath (v : Word) : (s.writeIntcon1 v).skidMath = s.skidMath := rfl
@[simp] theorem writeIntcon1_stallOsc (v : Word) : (s.writeIntcon1 v).stallOsc = s.stallOsc := rfl
@[simp] theorem writeIntcon1_stallAddr (v : Word) : (s.writeIntcon1 v).stallAddr = s.stallAddr := rfl
@[simp] theorem writeIntcon1_wrinh (v : Word) : (s.writeIntcon1 v).wrinh = s.wrinh := rfl
@[simp] theorem writeIntcon1_pinprev (v : Word) : (s.writeIntcon1 v).pinprev = s.pinprev := rfl
@[simp] theorem writeIntcon1_mem (v : Word) : (s.writeIntcon1 v).mem = s.mem := rfl
@[simp] theorem writeIntcon1_prog (v : Word) : (s.writeIntcon1 v).prog = s.prog := rfl
@[simp] theorem writeIntcon1_slot (v : Word) : (s.writeIntcon1 v).slot = { s.slot with raised := s.slot.raised.union (TrapSet.ofFlags (s.trapFlagsSetBy v)) } := rfl
@[simp] theorem writeIntcon1_inputs (v : Word) : (s.writeIntcon1 v).inputs = s.inputs := rfl
@[simp] theorem writeIntcon1_freeCount (v : Word) : (s.writeIntcon1 v).freeCount = s.freeCount := rfl
@[simp] theorem writeIntcon1_epoch (v : Word) : (s.writeIntcon1 v).epoch = s.epoch := rfl

/-! ### begin -/

@[simp] theorem begin_cfg : s.begin.cfg = s.cfg := rfl
@[simp] theorem begin_pc : s.begin.pc = s.pc := rfl
@[simp] theorem begin_pcBeyond : s.begin.pcBeyond = s.pcBeyond := rfl
@[simp] theorem begin_w : s.begin.w = s.w := rfl
@[simp] theorem begin_splim : s.begin.splim = s.splim := rfl
@[simp] theorem begin_splimEn : s.begin.splimEn = s.splimEn := rfl
@[simp] theorem begin_sr : s.begin.sr = s.sr := rfl
@[simp] theorem begin_corcon : s.begin.corcon = s.corcon := rfl
@[simp] theorem begin_intcon1 : s.begin.intcon1 = s.intcon1 := rfl
@[simp] theorem begin_intcon2 : s.begin.intcon2 = s.intcon2 := rfl
@[simp] theorem begin_ifs : s.begin.ifs = s.ifs := rfl
@[simp] theorem begin_iec : s.begin.iec = s.iec := rfl
@[simp] theorem begin_ipc : s.begin.ipc = s.ipc := rfl
@[simp] theorem begin_disicnt : s.begin.disicnt = s.disicnt := rfl
@[simp] theorem begin_trapr : s.begin.trapr = s.trapr := rfl
@[simp] theorem begin_cf : s.begin.cf = s.cf := rfl
@[simp] theorem begin_pcbuf : s.begin.pcbuf = s.pcbuf := rfl
@[simp] theorem begin_srlbuf : s.begin.srlbuf = s.srlbuf := rfl
@[simp] theorem begin_mode : s.begin.mode = s.mode := rfl
@[simp] theorem begin_skidStack : s.begin.skidStack = s.skidStack := rfl
@[simp] theorem begin_skidMath : s.begin.skidMath = s.skidMath := rfl
@[simp] theorem begin_stallOsc : s.begin.stallOsc = s.stallOsc := rfl
@[simp] theorem begin_stallAddr : s.begin.stallAddr = s.stallAddr := rfl
@[simp] theorem begin_wrinh : s.begin.wrinh = false := rfl
@[simp] theorem begin_pinprev : s.begin.pinprev = s.pinprev := rfl
@[simp] theorem begin_mem : s.begin.mem = s.mem := rfl
@[simp] theorem begin_prog : s.begin.prog = s.prog := rfl
@[simp] theorem begin_slot : s.begin.slot = Slot.fresh := rfl
@[simp] theorem begin_inputs : s.begin.inputs = s.inputs := rfl
@[simp] theorem begin_freeCount : s.begin.freeCount = s.freeCount := rfl
@[simp] theorem begin_epoch : s.begin.epoch = s.epoch := rfl

/-! ### took -/

@[simp] theorem took_cfg (c : Nat) : (s.took c).cfg = s.cfg := rfl
@[simp] theorem took_pc (c : Nat) : (s.took c).pc = s.pc := rfl
@[simp] theorem took_pcBeyond (c : Nat) : (s.took c).pcBeyond = s.pcBeyond := rfl
@[simp] theorem took_w (c : Nat) : (s.took c).w = s.w := rfl
@[simp] theorem took_splim (c : Nat) : (s.took c).splim = s.splim := rfl
@[simp] theorem took_splimEn (c : Nat) : (s.took c).splimEn = s.splimEn := rfl
@[simp] theorem took_sr (c : Nat) : (s.took c).sr = s.sr := rfl
@[simp] theorem took_corcon (c : Nat) : (s.took c).corcon = s.corcon := rfl
@[simp] theorem took_intcon1 (c : Nat) : (s.took c).intcon1 = s.intcon1 := rfl
@[simp] theorem took_intcon2 (c : Nat) : (s.took c).intcon2 = s.intcon2 := rfl
@[simp] theorem took_ifs (c : Nat) : (s.took c).ifs = s.ifs := rfl
@[simp] theorem took_iec (c : Nat) : (s.took c).iec = s.iec := rfl
@[simp] theorem took_ipc (c : Nat) : (s.took c).ipc = s.ipc := rfl
@[simp] theorem took_disicnt (c : Nat) : (s.took c).disicnt = s.disicnt := rfl
@[simp] theorem took_trapr (c : Nat) : (s.took c).trapr = s.trapr := rfl
@[simp] theorem took_cf (c : Nat) : (s.took c).cf = s.cf := rfl
@[simp] theorem took_pcbuf (c : Nat) : (s.took c).pcbuf = s.pcbuf := rfl
@[simp] theorem took_srlbuf (c : Nat) : (s.took c).srlbuf = s.srlbuf := rfl
@[simp] theorem took_mode (c : Nat) : (s.took c).mode = s.mode := rfl
@[simp] theorem took_skidStack (c : Nat) : (s.took c).skidStack = s.skidStack := rfl
@[simp] theorem took_skidMath (c : Nat) : (s.took c).skidMath = s.skidMath := rfl
@[simp] theorem took_stallOsc (c : Nat) : (s.took c).stallOsc = s.stallOsc := rfl
@[simp] theorem took_stallAddr (c : Nat) : (s.took c).stallAddr = s.stallAddr := rfl
@[simp] theorem took_wrinh (c : Nat) : (s.took c).wrinh = s.wrinh := rfl
@[simp] theorem took_pinprev (c : Nat) : (s.took c).pinprev = s.pinprev := rfl
@[simp] theorem took_mem (c : Nat) : (s.took c).mem = s.mem := rfl
@[simp] theorem took_prog (c : Nat) : (s.took c).prog = s.prog := rfl
@[simp] theorem took_slot (c : Nat) : (s.took c).slot = { s.slot with cycles := c } := rfl
@[simp] theorem took_inputs (c : Nat) : (s.took c).inputs = s.inputs := rfl
@[simp] theorem took_freeCount (c : Nat) : (s.took c).freeCount = s.freeCount := rfl
@[simp] theorem took_epoch (c : Nat) : (s.took c).epoch = s.epoch := rfl

/-! ### drawProg_snd -/

@[simp] theorem drawProg_snd_cfg : s.drawProg.2.cfg = s.cfg := rfl
@[simp] theorem drawProg_snd_pc : s.drawProg.2.pc = s.pc := rfl
@[simp] theorem drawProg_snd_pcBeyond : s.drawProg.2.pcBeyond = s.pcBeyond := rfl
@[simp] theorem drawProg_snd_w : s.drawProg.2.w = s.w := rfl
@[simp] theorem drawProg_snd_splim : s.drawProg.2.splim = s.splim := rfl
@[simp] theorem drawProg_snd_splimEn : s.drawProg.2.splimEn = s.splimEn := rfl
@[simp] theorem drawProg_snd_sr : s.drawProg.2.sr = s.sr := rfl
@[simp] theorem drawProg_snd_corcon : s.drawProg.2.corcon = s.corcon := rfl
@[simp] theorem drawProg_snd_intcon1 : s.drawProg.2.intcon1 = s.intcon1 := rfl
@[simp] theorem drawProg_snd_intcon2 : s.drawProg.2.intcon2 = s.intcon2 := rfl
@[simp] theorem drawProg_snd_ifs : s.drawProg.2.ifs = s.ifs := rfl
@[simp] theorem drawProg_snd_iec : s.drawProg.2.iec = s.iec := rfl
@[simp] theorem drawProg_snd_ipc : s.drawProg.2.ipc = s.ipc := rfl
@[simp] theorem drawProg_snd_disicnt : s.drawProg.2.disicnt = s.disicnt := rfl
@[simp] theorem drawProg_snd_trapr : s.drawProg.2.trapr = s.trapr := rfl
@[simp] theorem drawProg_snd_cf : s.drawProg.2.cf = s.cf := rfl
@[simp] theorem drawProg_snd_pcbuf : s.drawProg.2.pcbuf = s.pcbuf := rfl
@[simp] theorem drawProg_snd_srlbuf : s.drawProg.2.srlbuf = s.srlbuf := rfl
@[simp] theorem drawProg_snd_mode : s.drawProg.2.mode = s.mode := rfl
@[simp] theorem drawProg_snd_skidStack : s.drawProg.2.skidStack = s.skidStack := rfl
@[simp] theorem drawProg_snd_skidMath : s.drawProg.2.skidMath = s.skidMath := rfl
@[simp] theorem drawProg_snd_stallOsc : s.drawProg.2.stallOsc = s.stallOsc := rfl
@[simp] theorem drawProg_snd_stallAddr : s.drawProg.2.stallAddr = s.stallAddr := rfl
@[simp] theorem drawProg_snd_wrinh : s.drawProg.2.wrinh = s.wrinh := rfl
@[simp] theorem drawProg_snd_pinprev : s.drawProg.2.pinprev = s.pinprev := rfl
@[simp] theorem drawProg_snd_mem : s.drawProg.2.mem = s.mem := rfl
@[simp] theorem drawProg_snd_prog : s.drawProg.2.prog = s.prog := rfl
@[simp] theorem drawProg_snd_slot : s.drawProg.2.slot = s.slot := rfl
@[simp] theorem drawProg_snd_inputs : s.drawProg.2.inputs = s.inputs := rfl
@[simp] theorem drawProg_snd_epoch : s.drawProg.2.epoch = s.epoch := rfl

/-! ### setPc -/

@[simp] theorem setPc_pc (p : ProgAddr) : (s.setPc p).pc = p := rfl
@[simp] theorem setPc_pcBeyond (p : ProgAddr) : (s.setPc p).pcBeyond = false := rfl
@[simp] theorem setPc_cfg (p : ProgAddr) : (s.setPc p).cfg = s.cfg := rfl
@[simp] theorem setPc_w (p : ProgAddr) : (s.setPc p).w = s.w := rfl
@[simp] theorem setPc_splim (p : ProgAddr) : (s.setPc p).splim = s.splim := rfl
@[simp] theorem setPc_splimEn (p : ProgAddr) : (s.setPc p).splimEn = s.splimEn := rfl
@[simp] theorem setPc_sr (p : ProgAddr) : (s.setPc p).sr = s.sr := rfl
@[simp] theorem setPc_corcon (p : ProgAddr) : (s.setPc p).corcon = s.corcon := rfl
@[simp] theorem setPc_intcon1 (p : ProgAddr) : (s.setPc p).intcon1 = s.intcon1 := rfl
@[simp] theorem setPc_intcon2 (p : ProgAddr) : (s.setPc p).intcon2 = s.intcon2 := rfl
@[simp] theorem setPc_ifs (p : ProgAddr) : (s.setPc p).ifs = s.ifs := rfl
@[simp] theorem setPc_iec (p : ProgAddr) : (s.setPc p).iec = s.iec := rfl
@[simp] theorem setPc_ipc (p : ProgAddr) : (s.setPc p).ipc = s.ipc := rfl
@[simp] theorem setPc_disicnt (p : ProgAddr) : (s.setPc p).disicnt = s.disicnt := rfl
@[simp] theorem setPc_trapr (p : ProgAddr) : (s.setPc p).trapr = s.trapr := rfl
@[simp] theorem setPc_cf (p : ProgAddr) : (s.setPc p).cf = s.cf := rfl
@[simp] theorem setPc_pcbuf (p : ProgAddr) : (s.setPc p).pcbuf = s.pcbuf := rfl
@[simp] theorem setPc_srlbuf (p : ProgAddr) : (s.setPc p).srlbuf = s.srlbuf := rfl
@[simp] theorem setPc_mode (p : ProgAddr) : (s.setPc p).mode = s.mode := rfl
@[simp] theorem setPc_skidStack (p : ProgAddr) : (s.setPc p).skidStack = s.skidStack := rfl
@[simp] theorem setPc_skidMath (p : ProgAddr) : (s.setPc p).skidMath = s.skidMath := rfl
@[simp] theorem setPc_stallOsc (p : ProgAddr) : (s.setPc p).stallOsc = s.stallOsc := rfl
@[simp] theorem setPc_stallAddr (p : ProgAddr) : (s.setPc p).stallAddr = s.stallAddr := rfl
@[simp] theorem setPc_wrinh (p : ProgAddr) : (s.setPc p).wrinh = s.wrinh := rfl
@[simp] theorem setPc_pinprev (p : ProgAddr) : (s.setPc p).pinprev = s.pinprev := rfl
@[simp] theorem setPc_mem (p : ProgAddr) : (s.setPc p).mem = s.mem := rfl
@[simp] theorem setPc_prog (p : ProgAddr) : (s.setPc p).prog = s.prog := rfl
@[simp] theorem setPc_slot (p : ProgAddr) : (s.setPc p).slot = s.slot := rfl
@[simp] theorem setPc_inputs (p : ProgAddr) : (s.setPc p).inputs = s.inputs := rfl
@[simp] theorem setPc_freeCount (p : ProgAddr) : (s.setPc p).freeCount = s.freeCount := rfl
@[simp] theorem setPc_epoch (p : ProgAddr) : (s.setPc p).epoch = s.epoch := rfl

/-! ### advanceBy -/

@[simp] theorem advanceBy_pc (n : Nat) : (s.advanceBy n).pc = s.pc + BitVec.ofNat 23 n := rfl
@[simp] theorem advanceBy_pcBeyond (n : Nat) : (s.advanceBy n).pcBeyond = pastTop s.pc n := rfl
@[simp] theorem advanceBy_cfg (n : Nat) : (s.advanceBy n).cfg = s.cfg := rfl
@[simp] theorem advanceBy_w (n : Nat) : (s.advanceBy n).w = s.w := rfl
@[simp] theorem advanceBy_splim (n : Nat) : (s.advanceBy n).splim = s.splim := rfl
@[simp] theorem advanceBy_splimEn (n : Nat) : (s.advanceBy n).splimEn = s.splimEn := rfl
@[simp] theorem advanceBy_sr (n : Nat) : (s.advanceBy n).sr = s.sr := rfl
@[simp] theorem advanceBy_corcon (n : Nat) : (s.advanceBy n).corcon = s.corcon := rfl
@[simp] theorem advanceBy_intcon1 (n : Nat) : (s.advanceBy n).intcon1 = s.intcon1 := rfl
@[simp] theorem advanceBy_intcon2 (n : Nat) : (s.advanceBy n).intcon2 = s.intcon2 := rfl
@[simp] theorem advanceBy_ifs (n : Nat) : (s.advanceBy n).ifs = s.ifs := rfl
@[simp] theorem advanceBy_iec (n : Nat) : (s.advanceBy n).iec = s.iec := rfl
@[simp] theorem advanceBy_ipc (n : Nat) : (s.advanceBy n).ipc = s.ipc := rfl
@[simp] theorem advanceBy_disicnt (n : Nat) : (s.advanceBy n).disicnt = s.disicnt := rfl
@[simp] theorem advanceBy_trapr (n : Nat) : (s.advanceBy n).trapr = s.trapr := rfl
@[simp] theorem advanceBy_cf (n : Nat) : (s.advanceBy n).cf = s.cf := rfl
@[simp] theorem advanceBy_pcbuf (n : Nat) : (s.advanceBy n).pcbuf = s.pcbuf := rfl
@[simp] theorem advanceBy_srlbuf (n : Nat) : (s.advanceBy n).srlbuf = s.srlbuf := rfl
@[simp] theorem advanceBy_mode (n : Nat) : (s.advanceBy n).mode = s.mode := rfl
@[simp] theorem advanceBy_skidStack (n : Nat) : (s.advanceBy n).skidStack = s.skidStack := rfl
@[simp] theorem advanceBy_skidMath (n : Nat) : (s.advanceBy n).skidMath = s.skidMath := rfl
@[simp] theorem advanceBy_stallOsc (n : Nat) : (s.advanceBy n).stallOsc = s.stallOsc := rfl
@[simp] theorem advanceBy_stallAddr (n : Nat) : (s.advanceBy n).stallAddr = s.stallAddr := rfl
@[simp] theorem advanceBy_wrinh (n : Nat) : (s.advanceBy n).wrinh = s.wrinh := rfl
@[simp] theorem advanceBy_pinprev (n : Nat) : (s.advanceBy n).pinprev = s.pinprev := rfl
@[simp] theorem advanceBy_mem (n : Nat) : (s.advanceBy n).mem = s.mem := rfl
@[simp] theorem advanceBy_prog (n : Nat) : (s.advanceBy n).prog = s.prog := rfl
@[simp] theorem advanceBy_slot (n : Nat) : (s.advanceBy n).slot = s.slot := rfl
@[simp] theorem advanceBy_inputs (n : Nat) : (s.advanceBy n).inputs = s.inputs := rfl
@[simp] theorem advanceBy_freeCount (n : Nat) : (s.advanceBy n).freeCount = s.freeCount := rfl
@[simp] theorem advanceBy_epoch (n : Nat) : (s.advanceBy n).epoch = s.epoch := rfl

/-! ### advance -/

@[simp] theorem advance_pc : s.advance.pc = s.pc + 2 := rfl
@[simp] theorem advance_pcBeyond : s.advance.pcBeyond = pastTop s.pc 2 := rfl
@[simp] theorem advance_cfg : s.advance.cfg = s.cfg := rfl
@[simp] theorem advance_w : s.advance.w = s.w := rfl
@[simp] theorem advance_splim : s.advance.splim = s.splim := rfl
@[simp] theorem advance_splimEn : s.advance.splimEn = s.splimEn := rfl
@[simp] theorem advance_sr : s.advance.sr = s.sr := rfl
@[simp] theorem advance_corcon : s.advance.corcon = s.corcon := rfl
@[simp] theorem advance_intcon1 : s.advance.intcon1 = s.intcon1 := rfl
@[simp] theorem advance_intcon2 : s.advance.intcon2 = s.intcon2 := rfl
@[simp] theorem advance_ifs : s.advance.ifs = s.ifs := rfl
@[simp] theorem advance_iec : s.advance.iec = s.iec := rfl
@[simp] theorem advance_ipc : s.advance.ipc = s.ipc := rfl
@[simp] theorem advance_disicnt : s.advance.disicnt = s.disicnt := rfl
@[simp] theorem advance_trapr : s.advance.trapr = s.trapr := rfl
@[simp] theorem advance_cf : s.advance.cf = s.cf := rfl
@[simp] theorem advance_pcbuf : s.advance.pcbuf = s.pcbuf := rfl
@[simp] theorem advance_srlbuf : s.advance.srlbuf = s.srlbuf := rfl
@[simp] theorem advance_mode : s.advance.mode = s.mode := rfl
@[simp] theorem advance_skidStack : s.advance.skidStack = s.skidStack := rfl
@[simp] theorem advance_skidMath : s.advance.skidMath = s.skidMath := rfl
@[simp] theorem advance_stallOsc : s.advance.stallOsc = s.stallOsc := rfl
@[simp] theorem advance_stallAddr : s.advance.stallAddr = s.stallAddr := rfl
@[simp] theorem advance_wrinh : s.advance.wrinh = s.wrinh := rfl
@[simp] theorem advance_pinprev : s.advance.pinprev = s.pinprev := rfl
@[simp] theorem advance_mem : s.advance.mem = s.mem := rfl
@[simp] theorem advance_prog : s.advance.prog = s.prog := rfl
@[simp] theorem advance_slot : s.advance.slot = s.slot := rfl
@[simp] theorem advance_inputs : s.advance.inputs = s.inputs := rfl
@[simp] theorem advance_freeCount : s.advance.freeCount = s.freeCount := rfl
@[simp] theorem advance_epoch : s.advance.epoch = s.epoch := rfl

/-! ### tickSkid -/

@[simp] theorem tickSkid_cfg : s.tickSkid.cfg = s.cfg := rfl
@[simp] theorem tickSkid_pc : s.tickSkid.pc = s.pc := rfl
@[simp] theorem tickSkid_pcBeyond : s.tickSkid.pcBeyond = s.pcBeyond := rfl
@[simp] theorem tickSkid_w : s.tickSkid.w = s.w := rfl
@[simp] theorem tickSkid_splim : s.tickSkid.splim = s.splim := rfl
@[simp] theorem tickSkid_splimEn : s.tickSkid.splimEn = s.splimEn := rfl
@[simp] theorem tickSkid_sr : s.tickSkid.sr = s.sr := rfl
@[simp] theorem tickSkid_corcon : s.tickSkid.corcon = s.corcon := rfl
@[simp] theorem tickSkid_intcon1 : s.tickSkid.intcon1 = s.intcon1 := rfl
@[simp] theorem tickSkid_intcon2 : s.tickSkid.intcon2 = s.intcon2 := rfl
@[simp] theorem tickSkid_ifs : s.tickSkid.ifs = s.ifs := rfl
@[simp] theorem tickSkid_iec : s.tickSkid.iec = s.iec := rfl
@[simp] theorem tickSkid_ipc : s.tickSkid.ipc = s.ipc := rfl
@[simp] theorem tickSkid_disicnt : s.tickSkid.disicnt = s.disicnt := rfl
@[simp] theorem tickSkid_trapr : s.tickSkid.trapr = s.trapr := rfl
@[simp] theorem tickSkid_cf : s.tickSkid.cf = s.cf := rfl
@[simp] theorem tickSkid_pcbuf : s.tickSkid.pcbuf = s.pcbuf := rfl
@[simp] theorem tickSkid_srlbuf : s.tickSkid.srlbuf = s.srlbuf := rfl
@[simp] theorem tickSkid_mode : s.tickSkid.mode = s.mode := rfl
@[simp] theorem tickSkid_skidStack : s.tickSkid.skidStack = s.skidStack - 1 := rfl
@[simp] theorem tickSkid_skidMath : s.tickSkid.skidMath = s.skidMath - 1 := rfl
@[simp] theorem tickSkid_stallOsc : s.tickSkid.stallOsc = s.stallOsc := rfl
@[simp] theorem tickSkid_stallAddr : s.tickSkid.stallAddr = s.stallAddr := rfl
@[simp] theorem tickSkid_wrinh : s.tickSkid.wrinh = s.wrinh := rfl
@[simp] theorem tickSkid_pinprev : s.tickSkid.pinprev = s.pinprev := rfl
@[simp] theorem tickSkid_mem : s.tickSkid.mem = s.mem := rfl
@[simp] theorem tickSkid_prog : s.tickSkid.prog = s.prog := rfl
@[simp] theorem tickSkid_slot : s.tickSkid.slot = s.slot := rfl
@[simp] theorem tickSkid_inputs : s.tickSkid.inputs = s.inputs := rfl
@[simp] theorem tickSkid_freeCount : s.tickSkid.freeCount = s.freeCount := rfl
@[simp] theorem tickSkid_epoch : s.tickSkid.epoch = s.epoch := rfl

/-! ### beginEntry -/

@[simp] theorem beginEntry_cfg : s.beginEntry.cfg = s.cfg := rfl
@[simp] theorem beginEntry_pc : s.beginEntry.pc = s.pc := rfl
@[simp] theorem beginEntry_pcBeyond : s.beginEntry.pcBeyond = s.pcBeyond := rfl
@[simp] theorem beginEntry_w : s.beginEntry.w = s.w := rfl
@[simp] theorem beginEntry_splim : s.beginEntry.splim = s.splim := rfl
@[simp] theorem beginEntry_splimEn : s.beginEntry.splimEn = s.splimEn := rfl
@[simp] theorem beginEntry_sr : s.beginEntry.sr = s.sr := rfl
@[simp] theorem beginEntry_corcon : s.beginEntry.corcon = s.corcon := rfl
@[simp] theorem beginEntry_intcon1 : s.beginEntry.intcon1 = s.intcon1 := rfl
@[simp] theorem beginEntry_intcon2 : s.beginEntry.intcon2 = s.intcon2 := rfl
@[simp] theorem beginEntry_ifs : s.beginEntry.ifs = s.ifs := rfl
@[simp] theorem beginEntry_iec : s.beginEntry.iec = s.iec := rfl
@[simp] theorem beginEntry_ipc : s.beginEntry.ipc = s.ipc := rfl
@[simp] theorem beginEntry_disicnt : s.beginEntry.disicnt = s.disicnt := rfl
@[simp] theorem beginEntry_trapr : s.beginEntry.trapr = s.trapr := rfl
@[simp] theorem beginEntry_cf : s.beginEntry.cf = s.cf := rfl
@[simp] theorem beginEntry_pcbuf : s.beginEntry.pcbuf = s.pcbuf := rfl
@[simp] theorem beginEntry_srlbuf : s.beginEntry.srlbuf = s.srlbuf := rfl
@[simp] theorem beginEntry_mode : s.beginEntry.mode = s.mode := rfl
@[simp] theorem beginEntry_skidStack : s.beginEntry.skidStack = s.skidStack := rfl
@[simp] theorem beginEntry_skidMath : s.beginEntry.skidMath = s.skidMath := rfl
@[simp] theorem beginEntry_stallOsc : s.beginEntry.stallOsc = s.stallOsc := rfl
@[simp] theorem beginEntry_stallAddr : s.beginEntry.stallAddr = s.stallAddr := rfl
@[simp] theorem beginEntry_wrinh : s.beginEntry.wrinh = false := rfl
@[simp] theorem beginEntry_pinprev : s.beginEntry.pinprev = s.pinprev := rfl
@[simp] theorem beginEntry_mem : s.beginEntry.mem = s.mem := rfl
@[simp] theorem beginEntry_prog : s.beginEntry.prog = s.prog := rfl
@[simp] theorem beginEntry_slot : s.beginEntry.slot = { s.slot with raised := .none, disi := false, written := [], cycles := s.slot.cycles + 4 } := rfl
@[simp] theorem beginEntry_inputs : s.beginEntry.inputs = s.inputs := rfl
@[simp] theorem beginEntry_freeCount : s.beginEntry.freeCount = s.freeCount := rfl
@[simp] theorem beginEntry_epoch : s.beginEntry.epoch = s.epoch := rfl

/-! ### leaveStall -/

@[simp] theorem leaveStall_cfg (src : Source) : (s.leaveStall src).cfg = s.cfg := rfl
@[simp] theorem leaveStall_pc (src : Source) : (s.leaveStall src).pc = s.pc := rfl
@[simp] theorem leaveStall_pcBeyond (src : Source) : (s.leaveStall src).pcBeyond = s.pcBeyond := rfl
@[simp] theorem leaveStall_w (src : Source) : (s.leaveStall src).w = s.w := rfl
@[simp] theorem leaveStall_splim (src : Source) : (s.leaveStall src).splim = s.splim := rfl
@[simp] theorem leaveStall_splimEn (src : Source) : (s.leaveStall src).splimEn = s.splimEn := rfl
@[simp] theorem leaveStall_sr (src : Source) : (s.leaveStall src).sr = s.sr := rfl
@[simp] theorem leaveStall_corcon (src : Source) : (s.leaveStall src).corcon = s.corcon := rfl
@[simp] theorem leaveStall_intcon1 (src : Source) : (s.leaveStall src).intcon1 = s.intcon1 := rfl
@[simp] theorem leaveStall_intcon2 (src : Source) : (s.leaveStall src).intcon2 = s.intcon2 := rfl
@[simp] theorem leaveStall_ifs (src : Source) : (s.leaveStall src).ifs = s.ifs := rfl
@[simp] theorem leaveStall_iec (src : Source) : (s.leaveStall src).iec = s.iec := rfl
@[simp] theorem leaveStall_ipc (src : Source) : (s.leaveStall src).ipc = s.ipc := rfl
@[simp] theorem leaveStall_disicnt (src : Source) : (s.leaveStall src).disicnt = s.disicnt := rfl
@[simp] theorem leaveStall_trapr (src : Source) : (s.leaveStall src).trapr = s.trapr := rfl
@[simp] theorem leaveStall_cf (src : Source) : (s.leaveStall src).cf = s.cf := rfl
@[simp] theorem leaveStall_pcbuf (src : Source) : (s.leaveStall src).pcbuf = s.pcbuf := rfl
@[simp] theorem leaveStall_srlbuf (src : Source) : (s.leaveStall src).srlbuf = s.srlbuf := rfl
@[simp] theorem leaveStall_mode (src : Source) : (s.leaveStall src).mode = s.mode := rfl
@[simp] theorem leaveStall_skidStack (src : Source) : (s.leaveStall src).skidStack = s.skidStack := rfl
@[simp] theorem leaveStall_skidMath (src : Source) : (s.leaveStall src).skidMath = s.skidMath := rfl
@[simp] theorem leaveStall_stallOsc (src : Source) : (s.leaveStall src).stallOsc = (s.stallOsc && src != .trap .oscillatorFail) := rfl
@[simp] theorem leaveStall_stallAddr (src : Source) : (s.leaveStall src).stallAddr = (s.stallAddr && src != .trap .addressError) := rfl
@[simp] theorem leaveStall_wrinh (src : Source) : (s.leaveStall src).wrinh = s.wrinh := rfl
@[simp] theorem leaveStall_pinprev (src : Source) : (s.leaveStall src).pinprev = s.pinprev := rfl
@[simp] theorem leaveStall_mem (src : Source) : (s.leaveStall src).mem = s.mem := rfl
@[simp] theorem leaveStall_prog (src : Source) : (s.leaveStall src).prog = s.prog := rfl
@[simp] theorem leaveStall_slot (src : Source) : (s.leaveStall src).slot = s.slot := rfl
@[simp] theorem leaveStall_inputs (src : Source) : (s.leaveStall src).inputs = s.inputs := rfl
@[simp] theorem leaveStall_freeCount (src : Source) : (s.leaveStall src).freeCount = s.freeCount := rfl
@[simp] theorem leaveStall_epoch (src : Source) : (s.leaveStall src).epoch = s.epoch := rfl

end Sys2Proof.Machine
end

