-- ==== Sys2Proof/Laws/Frames.lean ====
section
/-!
SUPPORT. The frame of each shared operation: the fields of the state it never changes. One lemma per field, so that simp carries
a field through any chain of operations.
-/

namespace Sys2Proof.Machine

variable (s : State)

/-! ### raiseIf -/

@[simp] theorem raiseIf_cfg (c : Bool) (t : Trap) : (s.raiseIf c t).cfg = s.cfg := by
  unfold State.raiseIf; split <;> rfl
@[simp] theorem raiseIf_pc (c : Bool) (t : Trap) : (s.raiseIf c t).pc = s.pc := by
  unfold State.raiseIf; split <;> rfl
@[simp] theorem raiseIf_pcBeyond (c : Bool) (t : Trap) : (s.raiseIf c t).pcBeyond = s.pcBeyond := by
  unfold State.raiseIf; split <;> rfl
@[simp] theorem raiseIf_w (c : Bool) (t : Trap) : (s.raiseIf c t).w = s.w := by
  unfold State.raiseIf; split <;> rfl
@[simp] theorem raiseIf_splim (c : Bool) (t : Trap) : (s.raiseIf c t).splim = s.splim := by
  unfold State.raiseIf; split <;> rfl
@[simp] theorem raiseIf_splimEn (c : Bool) (t : Trap) : (s.raiseIf c t).splimEn = s.splimEn := by
  unfold State.raiseIf; split <;> rfl
@[simp] theorem raiseIf_sr (c : Bool) (t : Trap) : (s.raiseIf c t).sr = s.sr := by
  unfold State.raiseIf; split <;> rfl
@[simp] theorem raiseIf_corcon (c : Bool) (t : Trap) : (s.raiseIf c t).corcon = s.corcon := by
  unfold State.raiseIf; split <;> rfl
@[simp] theorem raiseIf_intcon1 (c : Bool) (t : Trap) : (s.raiseIf c t).intcon1 = s.intcon1 := by
  unfold State.raiseIf; split <;> rfl
@[simp] theorem raiseIf_intcon2 (c : Bool) (t : Trap) : (s.raiseIf c t).intcon2 = s.intcon2 := by
  unfold State.raiseIf; split <;> rfl
@[simp] theorem raiseIf_ifs (c : Bool) (t : Trap) : (s.raiseIf c t).ifs = s.ifs := by
  unfold State.raiseIf; split <;> rfl
@[simp] theorem raiseIf_iec (c : Bool) (t : Trap) : (s.raiseIf c t).iec = s.iec := by
  unfold State.raiseIf; split <;> rfl
@[simp] theorem raiseIf_ipc (c : Bool) (t : Trap) : (s.raiseIf c t).ipc = s.ipc := by
  unfold State.raiseIf; split <;> rfl
@[simp] theorem raiseIf_disicnt (c : Bool) (t : Trap) : (s.raiseIf c t).disicnt = s.disicnt := by
  unfold State.raiseIf; split <;> rfl
@[simp] theorem raiseIf_trapr (c : Bool) (t : Trap) : (s.raiseIf c t).trapr = s.trapr := by
  unfold State.raiseIf; split <;> rfl
@[simp] theorem raiseIf_cf (c : Bool) (t : Trap) : (s.raiseIf c t).cf = s.cf := by
  unfold State.raiseIf; split <;> rfl
@[simp] theorem raiseIf_pcbuf (c : Bool) (t : Trap) : (s.raiseIf c t).pcbuf = s.pcbuf := by
  unfold State.raiseIf; split <;> rfl
@[simp] theorem raiseIf_srlbuf (c : Bool) (t : Trap) : (s.raiseIf c t).srlbuf = s.srlbuf := by
  unfold State.raiseIf; split <;> rfl
@[simp] theorem raiseIf_mode (c : Bool) (t : Trap) : (s.raiseIf c t).mode = s.mode := by
  unfold State.raiseIf; split <;> rfl
@[simp] theorem raiseIf_skidStack (c : Bool) (t : Trap) : (s.raiseIf c t).skidStack = s.skidStack := by
  unfold State.raiseIf; split <;> rfl
@[simp] theorem raiseIf_skidMath (c : Bool) (t : Trap) : (s.raiseIf c t).skidMath = s.skidMath := by
  unfold State.raiseIf; split <;> rfl
@[simp] theorem raiseIf_stallOsc (c : Bool) (t : Trap) : (s.raiseIf c t).stallOsc = s.stallOsc := by
  unfold State.raiseIf; split <;> rfl
@[simp] theorem raiseIf_stallAddr (c : Bool) (t : Trap) : (s.raiseIf c t).stallAddr = s.stallAddr := by
  unfold State.raiseIf; split <;> rfl
@[simp] theorem raiseIf_pinprev (c : Bool) (t : Trap) : (s.raiseIf c t).pinprev = s.pinprev := by
  unfold State.raiseIf; split <;> rfl
@[simp] theorem raiseIf_mem (c : Bool) (t : Trap) : (s.raiseIf c t).mem = s.mem := by
  unfold State.raiseIf; split <;> rfl
@[simp] theorem raiseIf_prog (c : Bool) (t : Trap) : (s.raiseIf c t).prog = s.prog := by
  unfold State.raiseIf; split <;> rfl
@[simp] theorem raiseIf_inputs (c : Bool) (t : Trap) : (s.raiseIf c t).inputs = s.inputs := by
  unfold State.raiseIf; split <;> rfl
@[simp] theorem raiseIf_freeCount (c : Bool) (t : Trap) : (s.raiseIf c t).freeCount = s.freeCount := by
  unfold State.raiseIf; split <;> rfl
@[simp] theorem raiseIf_epoch (c : Bool) (t : Trap) : (s.raiseIf c t).epoch = s.epoch := by
  unfold State.raiseIf; split <;> rfl

/-! ### checkStackEA -/

@[simp] theorem checkStackEA_cfg (ea : DataAddr) : (s.checkStackEA ea).cfg = s.cfg := by
  simp [State.checkStackEA]
@[simp] theorem checkStackEA_pc (ea : DataAddr) : (s.checkStackEA ea).pc = s.pc := by
  simp [State.checkStackEA]
@[simp] theorem checkStackEA_pcBeyond (ea : DataAddr) : (s.checkStackEA ea).pcBeyond = s.pcBeyond := by
  simp [State.checkStackEA]
@[simp] theorem checkStackEA_w (ea : DataAddr) : (s.checkStackEA ea).w = s.w := by
  simp [State.checkStackEA]
@[simp] theorem checkStackEA_splim (ea : DataAddr) : (s.checkStackEA ea).splim = s.splim := by
  simp [State.checkStackEA]
@[simp] theorem checkStackEA_splimEn (ea : DataAddr) : (s.checkStackEA ea).splimEn = s.splimEn := by
  simp [State.checkStackEA]
@[simp] theorem checkStackEA_sr (ea : DataAddr) : (s.checkStackEA ea).sr = s.sr := by
  simp [State.checkStackEA]
@[simp] theorem checkStackEA_corcon (ea : DataAddr) : (s.checkStackEA ea).corcon = s.corcon := by
  simp [State.checkStackEA]
@[simp] theorem checkStackEA_intcon1 (ea : DataAddr) : (s.checkStackEA ea).intcon1 = s.intcon1 := by
  simp [State.checkStackEA]
@[simp] theorem checkStackEA_intcon2 (ea : DataAddr) : (s.checkStackEA ea).intcon2 = s.intcon2 := by
  simp [State.checkStackEA]
@[simp] theorem checkStackEA_ifs (ea : DataAddr) : (s.checkStackEA ea).ifs = s.ifs := by
  simp [State.checkStackEA]
@[simp] theorem checkStackEA_iec (ea : DataAddr) : (s.checkStackEA ea).iec = s.iec := by
  simp [State.checkStackEA]
@[simp] theorem checkStackEA_ipc (ea : DataAddr) : (s.checkStackEA ea).ipc = s.ipc := by
  simp [State.checkStackEA]
@[simp] theorem checkStackEA_disicnt (ea : DataAddr) : (s.checkStackEA ea).disicnt = s.disicnt := by
  simp [State.checkStackEA]
@[simp] theorem checkStackEA_trapr (ea : DataAddr) : (s.checkStackEA ea).trapr = s.trapr := by
  simp [State.checkStackEA]
@[simp] theorem checkStackEA_cf (ea : DataAddr) : (s.checkStackEA ea).cf = s.cf := by
  simp [State.checkStackEA]
@[simp] theorem checkStackEA_pcbuf (ea : DataAddr) : (s.checkStackEA ea).pcbuf = s.pcbuf := by
  simp [State.checkStackEA]
@[simp] theorem checkStackEA_srlbuf (ea : DataAddr) : (s.checkStackEA ea).srlbuf = s.srlbuf := by
  simp [State.checkStackEA]
@[simp] theorem checkStackEA_mode (ea : DataAddr) : (s.checkStackEA ea).mode = s.mode := by
  simp [State.checkStackEA]
@[simp] theorem checkStackEA_skidStack (ea : DataAddr) : (s.checkStackEA ea).skidStack = s.skidStack := by
  simp [State.checkStackEA]
@[simp] theorem checkStackEA_skidMath (ea : DataAddr) : (s.checkStackEA ea).skidMath = s.skidMath := by
  simp [State.checkStackEA]
@[simp] theorem checkStackEA_stallOsc (ea : DataAddr) : (s.checkStackEA ea).stallOsc = s.stallOsc := by
  simp [State.checkStackEA]
@[simp] theorem checkStackEA_stallAddr (ea : DataAddr) : (s.checkStackEA ea).stallAddr = s.stallAddr := by
  simp [State.checkStackEA]
@[simp] theorem checkStackEA_pinprev (ea : DataAddr) : (s.checkStackEA ea).pinprev = s.pinprev := by
  simp [State.checkStackEA]
@[simp] theorem checkStackEA_mem (ea : DataAddr) : (s.checkStackEA ea).mem = s.mem := by
  simp [State.checkStackEA]
@[simp] theorem checkStackEA_prog (ea : DataAddr) : (s.checkStackEA ea).prog = s.prog := by
  simp [State.checkStackEA]
@[simp] theorem checkStackEA_inputs (ea : DataAddr) : (s.checkStackEA ea).inputs = s.inputs := by
  simp [State.checkStackEA]
@[simp] theorem checkStackEA_freeCount (ea : DataAddr) : (s.checkStackEA ea).freeCount = s.freeCount := by
  simp [State.checkStackEA]
@[simp] theorem checkStackEA_epoch (ea : DataAddr) : (s.checkStackEA ea).epoch = s.epoch := by
  simp [State.checkStackEA]

/-! ### setW -/

@[simp] theorem setW_cfg (n : WReg) (v : Word) : (s.setW n v).cfg = s.cfg := by
  simp [State.setW]
@[simp] theorem setW_pc (n : WReg) (v : Word) : (s.setW n v).pc = s.pc := by
  simp [State.setW]
@[simp] theorem setW_pcBeyond (n : WReg) (v : Word) : (s.setW n v).pcBeyond = s.pcBeyond := by
  simp [State.setW]
@[simp] theorem setW_splim (n : WReg) (v : Word) : (s.setW n v).splim = s.splim := by
  simp [State.setW]
@[simp] theorem setW_splimEn (n : WReg) (v : Word) : (s.setW n v).splimEn = s.splimEn := by
  simp [State.setW]
@[simp] theorem setW_sr (n : WReg) (v : Word) : (s.setW n v).sr = s.sr := by
  simp [State.setW]
@[simp] theorem setW_corcon (n : WReg) (v : Word) : (s.setW n v).corcon = s.corcon := by
  simp [State.setW]
@[simp] theorem setW_intcon1 (n : WReg) (v : Word) : (s.setW n v).intcon1 = s.intcon1 := by
  simp [State.setW]
@[simp] theorem setW_intcon2 (n : WReg) (v : Word) : (s.setW n v).intcon2 = s.intcon2 := by
  simp [State.setW]
@[simp] theorem setW_ifs (n : WReg) (v : Word) : (s.setW n v).ifs = s.ifs := by
  simp [State.setW]
@[simp] theorem setW_iec (n : WReg) (v : Word) : (s.setW n v).iec = s.iec := by
  simp [State.setW]
@[simp] theorem setW_ipc (n : WReg) (v : Word) : (s.setW n v).ipc = s.ipc := by
  simp [State.setW]
@[simp] theorem setW_disicnt (n : WReg) (v : Word) : (s.setW n v).disicnt = s.disicnt := by
  simp [State.setW]
@[simp] theorem setW_trapr (n : WReg) (v : Word) : (s.setW n v).trapr = s.trapr := by
  simp [State.setW]
@[simp] theorem setW_cf (n : WReg) (v : Word) : (s.setW n v).cf = s.cf := by
  simp [State.setW]
@[simp] theorem setW_pcbuf (n : WReg) (v : Word) : (s.setW n v).pcbuf = s.pcbuf := by
  simp [State.setW]
@[simp] theorem setW_srlbuf (n : WReg) (v : Word) : (s.setW n v).srlbuf = s.srlbuf := by
  simp [State.setW]
@[simp] theorem setW_mode (n : WReg) (v : Word) : (s.setW n v).mode = s.mode := by
  simp [State.setW]
@[simp] theorem setW_skidStack (n : WReg) (v : Word) : (s.setW n v).skidStack = s.skidStack := by
  simp [State.setW]
@[simp] theorem setW_skidMath (n : WReg) (v : Word) : (s.setW n v).skidMath = s.skidMath := by
  simp [State.setW]
@[simp] theorem setW_stallOsc (n : WReg) (v : Word) : (s.setW n v).stallOsc = s.stallOsc := by
  simp [State.setW]
@[simp] theorem setW_stallAddr (n : WReg) (v : Word) : (s.setW n v).stallAddr = s.stallAddr := by
  simp [State.setW]
@[simp] theorem setW_pinprev (n : WReg) (v : Word) : (s.setW n v).pinprev = s.pinprev := by
  simp [State.setW]
@[simp] theorem setW_mem (n : WReg) (v : Word) : (s.setW n v).mem = s.mem := by
  simp [State.setW]
@[simp] theorem setW_prog (n : WReg) (v : Word) : (s.setW n v).prog = s.prog := by
  simp [State.setW]
@[simp] theorem setW_inputs (n : WReg) (v : Word) : (s.setW n v).inputs = s.inputs := by
  simp [State.setW]
@[simp] theorem setW_freeCount (n : WReg) (v : Word) : (s.setW n v).freeCount = s.freeCount := by
  simp [State.setW]
@[simp] theorem setW_epoch (n : WReg) (v : Word) : (s.setW n v).epoch = s.epoch := by
  simp [State.setW]

/-! ### readSfr_snd -/

@[simp] theorem readSfr_snd_cfg (r : Sfr) : (s.readSfr r).2.cfg = s.cfg := by
  unfold State.readSfr; split <;> simp
@[simp] theorem readSfr_snd_pc (r : Sfr) : (s.readSfr r).2.pc = s.pc := by
  unfold State.readSfr; split <;> simp
@[simp] theorem readSfr_snd_pcBeyond (r : Sfr) : (s.readSfr r).2.pcBeyond = s.pcBeyond := by
  unfold State.readSfr; split <;> simp
@[simp] theorem readSfr_snd_w (r : Sfr) : (s.readSfr r).2.w = s.w := by
  unfold State.readSfr; split <;> simp
@[simp] theorem readSfr_snd_splim (r : Sfr) : (s.readSfr r).2.splim = s.splim := by
  unfold State.readSfr; split <;> simp
@[simp] theorem readSfr_snd_splimEn (r : Sfr) : (s.readSfr r).2.splimEn = s.splimEn := by
  unfold State.readSfr; split <;> simp
@[simp] theorem readSfr_snd_sr (r : Sfr) : (s.readSfr r).2.sr = s.sr := by
  unfold State.readSfr; split <;> simp
@[simp] theorem readSfr_snd_corcon (r : Sfr) : (s.readSfr r).2.corcon = s.corcon := by
  unfold State.readSfr; split <;> simp
@[simp] theorem readSfr_snd_intcon1 (r : Sfr) : (s.readSfr r).2.intcon1 = s.intcon1 := by
  unfold State.readSfr; split <;> simp
@[simp] theorem readSfr_snd_intcon2 (r : Sfr) : (s.readSfr r).2.intcon2 = s.intcon2 := by
  unfold State.readSfr; split <;> simp
@[simp] theorem readSfr_snd_ifs (r : Sfr) : (s.readSfr r).2.ifs = s.ifs := by
  unfold State.readSfr; split <;> simp
@[simp] theorem readSfr_snd_iec (r : Sfr) : (s.readSfr r).2.iec = s.iec := by
  unfold State.readSfr; split <;> simp
@[simp] theorem readSfr_snd_ipc (r : Sfr) : (s.readSfr r).2.ipc = s.ipc := by
  unfold State.readSfr; split <;> simp
@[simp] theorem readSfr_snd_disicnt (r : Sfr) : (s.readSfr r).2.disicnt = s.disicnt := by
  unfold State.readSfr; split <;> simp
@[simp] theorem readSfr_snd_trapr (r : Sfr) : (s.readSfr r).2.trapr = s.trapr := by
  unfold State.readSfr; split <;> simp
@[simp] theorem readSfr_snd_cf (r : Sfr) : (s.readSfr r).2.cf = s.cf := by
  unfold State.readSfr; split <;> simp
@[simp] theorem readSfr_snd_pcbuf (r : Sfr) : (s.readSfr r).2.pcbuf = s.pcbuf := by
  unfold State.readSfr; split <;> simp
@[simp] theorem readSfr_snd_srlbuf (r : Sfr) : (s.readSfr r).2.srlbuf = s.srlbuf := by
  unfold State.readSfr; split <;> simp
@[simp] theorem readSfr_snd_mode (r : Sfr) : (s.readSfr r).2.mode = s.mode := by
  unfold State.readSfr; split <;> simp
@[simp] theorem readSfr_snd_skidStack (r : Sfr) : (s.readSfr r).2.skidStack = s.skidStack := by
  unfold State.readSfr; split <;> simp
@[simp] theorem readSfr_snd_skidMath (r : Sfr) : (s.readSfr r).2.skidMath = s.skidMath := by
  unfold State.readSfr; split <;> simp
@[simp] theorem readSfr_snd_stallOsc (r : Sfr) : (s.readSfr r).2.stallOsc = s.stallOsc := by
  unfold State.readSfr; split <;> simp
@[simp] theorem readSfr_snd_stallAddr (r : Sfr) : (s.readSfr r).2.stallAddr = s.stallAddr := by
  unfold State.readSfr; split <;> simp
@[simp] theorem readSfr_snd_wrinh (r : Sfr) : (s.readSfr r).2.wrinh = s.wrinh := by
  unfold State.readSfr; split <;> simp
@[simp] theorem readSfr_snd_pinprev (r : Sfr) : (s.readSfr r).2.pinprev = s.pinprev := by
  unfold State.readSfr; split <;> simp
@[simp] theorem readSfr_snd_mem (r : Sfr) : (s.readSfr r).2.mem = s.mem := by
  unfold State.readSfr; split <;> simp
@[simp] theorem readSfr_snd_prog (r : Sfr) : (s.readSfr r).2.prog = s.prog := by
  unfold State.readSfr; split <;> simp
@[simp] theorem readSfr_snd_slot (r : Sfr) : (s.readSfr r).2.slot = s.slot := by
  unfold State.readSfr; split <;> simp
@[simp] theorem readSfr_snd_inputs (r : Sfr) : (s.readSfr r).2.inputs = s.inputs := by
  unfold State.readSfr; split <;> simp
@[simp] theorem readSfr_snd_epoch (r : Sfr) : (s.readSfr r).2.epoch = s.epoch := by
  unfold State.readSfr; split <;> simp

/-! ### readWord_snd -/

@[simp] theorem readWord_snd_cfg (a : DataAddr) : (s.readWord a).2.cfg = s.cfg := by
  unfold State.readWord; split <;> (try split) <;> simp
@[simp] theorem readWord_snd_pc (a : DataAddr) : (s.readWord a).2.pc = s.pc := by
  unfold State.readWord; split <;> (try split) <;> simp
@[simp] theorem readWord_snd_pcBeyond (a : DataAddr) : (s.readWord a).2.pcBeyond = s.pcBeyond := by
  unfold State.readWord; split <;> (try split) <;> simp
@[simp] theorem readWord_snd_w (a : DataAddr) : (s.readWord a).2.w = s.w := by
  unfold State.readWord; split <;> (try split) <;> simp
@[simp] theorem readWord_snd_splim (a : DataAddr) : (s.readWord a).2.splim = s.splim := by
  unfold State.readWord; split <;> (try split) <;> simp
@[simp] theorem readWord_snd_splimEn (a : DataAddr) : (s.readWord a).2.splimEn = s.splimEn := by
  unfold State.readWord; split <;> (try split) <;> simp
@[simp] theorem readWord_snd_sr (a : DataAddr) : (s.readWord a).2.sr = s.sr := by
  unfold State.readWord; split <;> (try split) <;> simp
@[simp] theorem readWord_snd_corcon (a : DataAddr) : (s.readWord a).2.corcon = s.corcon := by
  unfold State.readWord; split <;> (try split) <;> simp
@[simp] theorem readWord_snd_intcon1 (a : DataAddr) : (s.readWord a).2.intcon1 = s.intcon1 := by
  unfold State.readWord; split <;> (try split) <;> simp
@[simp] theorem readWord_snd_intcon2 (a : DataAddr) : (s.readWord a).2.intcon2 = s.intcon2 := by
  unfold State.readWord; split <;> (try split) <;> simp
@[simp] theorem readWord_snd_ifs (a : DataAddr) : (s.readWord a).2.ifs = s.ifs := by
  unfold State.readWord; split <;> (try split) <;> simp
@[simp] theorem readWord_snd_iec (a : DataAddr) : (s.readWord a).2.iec = s.iec := by
  unfold State.readWord; split <;> (try split) <;> simp
@[simp] theorem readWord_snd_ipc (a : DataAddr) : (s.readWord a).2.ipc = s.ipc := by
  unfold State.readWord; split <;> (try split) <;> simp
@[simp] theorem readWord_snd_disicnt (a : DataAddr) : (s.readWord a).2.disicnt = s.disicnt := by
  unfold State.readWord; split <;> (try split) <;> simp
@[simp] theorem readWord_snd_trapr (a : DataAddr) : (s.readWord a).2.trapr = s.trapr := by
  unfold State.readWord; split <;> (try split) <;> simp
@[simp] theorem readWord_snd_cf (a : DataAddr) : (s.readWord a).2.cf = s.cf := by
  unfold State.readWord; split <;> (try split) <;> simp
@[simp] theorem readWord_snd_pcbuf (a : DataAddr) : (s.readWord a).2.pcbuf = s.pcbuf := by
  unfold State.readWord; split <;> (try split) <;> simp
@[simp] theorem readWord_snd_srlbuf (a : DataAddr) : (s.readWord a).2.srlbuf = s.srlbuf := by
  unfold State.readWord; split <;> (try split) <;> simp
@[simp] theorem readWord_snd_mode (a : DataAddr) : (s.readWord a).2.mode = s.mode := by
  unfold State.readWord; split <;> (try split) <;> simp
@[simp] theorem readWord_snd_skidStack (a : DataAddr) : (s.readWord a).2.skidStack = s.skidStack := by
  unfold State.readWord; split <;> (try split) <;> simp
@[simp] theorem readWord_snd_skidMath (a : DataAddr) : (s.readWord a).2.skidMath = s.skidMath := by
  unfold State.readWord; split <;> (try split) <;> simp
@[simp] theorem readWord_snd_stallOsc (a : DataAddr) : (s.readWord a).2.stallOsc = s.stallOsc := by
  unfold State.readWord; split <;> (try split) <;> simp
@[simp] theorem readWord_snd_stallAddr (a : DataAddr) : (s.readWord a).2.stallAddr = s.stallAddr := by
  unfold State.readWord; split <;> (try split) <;> simp
@[simp] theorem readWord_snd_pinprev (a : DataAddr) : (s.readWord a).2.pinprev = s.pinprev := by
  unfold State.readWord; split <;> (try split) <;> simp
@[simp] theorem readWord_snd_mem (a : DataAddr) : (s.readWord a).2.mem = s.mem := by
  unfold State.readWord; split <;> (try split) <;> simp
@[simp] theorem readWord_snd_prog (a : DataAddr) : (s.readWord a).2.prog = s.prog := by
  unfold State.readWord; split <;> (try split) <;> simp
@[simp] theorem readWord_snd_inputs (a : DataAddr) : (s.readWord a).2.inputs = s.inputs := by
  unfold State.readWord; split <;> (try split) <;> simp
@[simp] theorem readWord_snd_epoch (a : DataAddr) : (s.readWord a).2.epoch = s.epoch := by
  unfold State.readWord; split <;> (try split) <;> simp

/-! ### readByte_snd -/

@[simp] theorem readByte_snd_cfg (a : DataAddr) : (s.readByte a).2.cfg = s.cfg := by
  unfold State.readByte; split <;> (try split) <;> simp
@[simp] theorem readByte_snd_pc (a : DataAddr) : (s.readByte a).2.pc = s.pc := by
  unfold State.readByte; split <;> (try split) <;> simp
@[simp] theorem readByte_snd_pcBeyond (a : DataAddr) : (s.readByte a).2.pcBeyond = s.pcBeyond := by
  unfold State.readByte; split <;> (try split) <;> simp
@[simp] theorem readByte_snd_w (a : DataAddr) : (s.readByte a).2.w = s.w := by
  unfold State.readByte; split <;> (try split) <;> simp
@[simp] theorem readByte_snd_splim (a : DataAddr) : (s.readByte a).2.splim = s.splim := by
  unfold State.readByte; split <;> (try split) <;> simp
@[simp] theorem readByte_snd_splimEn (a : DataAddr) : (s.readByte a).2.splimEn = s.splimEn := by
  unfold State.readByte; split <;> (try split) <;> simp
@[simp] theorem readByte_snd_sr (a : DataAddr) : (s.readByte a).2.sr = s.sr := by
  unfold State.readByte; split <;> (try split) <;> simp
@[simp] theorem readByte_snd_corcon (a : DataAddr) : (s.readByte a).2.corcon = s.corcon := by
  unfold State.readByte; split <;> (try split) <;> simp
@[simp] theorem readByte_snd_intcon1 (a : DataAddr) : (s.readByte a).2.intcon1 = s.intcon1 := by
  unfold State.readByte; split <;> (try split) <;> simp
@[simp] theorem readByte_snd_intcon2 (a : DataAddr) : (s.readByte a).2.intcon2 = s.intcon2 := by
  unfold State.readByte; split <;> (try split) <;> simp
@[simp] theorem readByte_snd_ifs (a : DataAddr) : (s.readByte a).2.ifs = s.ifs := by
  unfold State.readByte; split <;> (try split) <;> simp
@[simp] theorem readByte_snd_iec (a : DataAddr) : (s.readByte a).2.iec = s.iec := by
  unfold State.readByte; split <;> (try split) <;> simp
@[simp] theorem readByte_snd_ipc (a : DataAddr) : (s.readByte a).2.ipc = s.ipc := by
  unfold State.readByte; split <;> (try split) <;> simp
@[simp] theorem readByte_snd_disicnt (a : DataAddr) : (s.readByte a).2.disicnt = s.disicnt := by
  unfold State.readByte; split <;> (try split) <;> simp
@[simp] theorem readByte_snd_trapr (a : DataAddr) : (s.readByte a).2.trapr = s.trapr := by
  unfold State.readByte; split <;> (try split) <;> simp
@[simp] theorem readByte_snd_cf (a : DataAddr) : (s.readByte a).2.cf = s.cf := by
  unfold State.readByte; split <;> (try split) <;> simp
@[simp] theorem readByte_snd_pcbuf (a : DataAddr) : (s.readByte a).2.pcbuf = s.pcbuf := by
  unfold State.readByte; split <;> (try split) <;> simp
@[simp] theorem readByte_snd_srlbuf (a : DataAddr) : (s.readByte a).2.srlbuf = s.srlbuf := by
  unfold State.readByte; split <;> (try split) <;> simp
@[simp] theorem readByte_snd_mode (a : DataAddr) : (s.readByte a).2.mode = s.mode := by
  unfold State.readByte; split <;> (try split) <;> simp
@[simp] theorem readByte_snd_skidStack (a : DataAddr) : (s.readByte a).2.skidStack = s.skidStack := by
  unfold State.readByte; split <;> (try split) <;> simp
@[simp] theorem readByte_snd_skidMath (a : DataAddr) : (s.readByte a).2.skidMath = s.skidMath := by
  unfold State.readByte; split <;> (try split) <;> simp
@[simp] theorem readByte_snd_stallOsc (a : DataAddr) : (s.readByte a).2.stallOsc = s.stallOsc := by
  unfold State.readByte; split <;> (try split) <;> simp
@[simp] theorem readByte_snd_stallAddr (a : DataAddr) : (s.readByte a).2.stallAddr = s.stallAddr := by
  unfold State.readByte; split <;> (try split) <;> simp
@[simp] theorem readByte_snd_pinprev (a : DataAddr) : (s.readByte a).2.pinprev = s.pinprev := by
  unfold State.readByte; split <;> (try split) <;> simp
@[simp] theorem readByte_snd_mem (a : DataAddr) : (s.readByte a).2.mem = s.mem := by
  unfold State.readByte; split <;> (try split) <;> simp
@[simp] theorem readByte_snd_prog (a : DataAddr) : (s.readByte a).2.prog = s.prog := by
  unfold State.readByte; split <;> (try split) <;> simp
@[simp] theorem readByte_snd_inputs (a : DataAddr) : (s.readByte a).2.inputs = s.inputs := by
  unfold State.readByte; split <;> (try split) <;> simp
@[simp] theorem readByte_snd_epoch (a : DataAddr) : (s.readByte a).2.epoch = s.epoch := by
  unfold State.readByte; split <;> (try split) <;> simp

/-! ### putRamWord -/

@[simp] theorem putRamWord_cfg (a : DataAddr) (v : Word) : (s.putRamWord a v).cfg = s.cfg := by
  unfold State.putRamWord; split <;> simp
@[simp] theorem putRamWord_pc (a : DataAddr) (v : Word) : (s.putRamWord a v).pc = s.pc := by
  unfold State.putRamWord; split <;> simp
@[simp] theorem putRamWord_pcBeyond (a : DataAddr) (v : Word) : (s.putRamWord a v).pcBeyond = s.pcBeyond := by
  unfold State.putRamWord; split <;> simp
@[simp] theorem putRamWord_w (a : DataAddr) (v : Word) : (s.putRamWord a v).w = s.w := by
  unfold State.putRamWord; split <;> simp
@[simp] theorem putRamWord_splim (a : DataAddr) (v : Word) : (s.putRamWord a v).splim = s.splim := by
  unfold State.putRamWord; split <;> simp
@[simp] theorem putRamWord_splimEn (a : DataAddr) (v : Word) : (s.putRamWord a v).splimEn = s.splimEn := by
  unfold State.putRamWord; split <;> simp
@[simp] theorem putRamWord_sr (a : DataAddr) (v : Word) : (s.putRamWord a v).sr = s.sr := by
  unfold State.putRamWord; split <;> simp
@[simp] theorem putRamWord_corcon (a : DataAddr) (v : Word) : (s.putRamWord a v).corcon = s.corcon := by
  unfold State.putRamWord; split <;> simp
@[simp] theorem putRamWord_intcon1 (a : DataAddr) (v : Word) : (s.putRamWord a v).intcon1 = s.intcon1 := by
  unfold State.putRamWord; split <;> simp
@[simp] theorem putRamWord_intcon2 (a : DataAddr) (v : Word) : (s.putRamWord a v).intcon2 = s.intcon2 := by
  unfold State.putRamWord; split <;> simp
@[simp] theorem putRamWord_ifs (a : DataAddr) (v : Word) : (s.putRamWord a v).ifs = s.ifs := by
  unfold State.putRamWord; split <;> simp
@[simp] theorem putRamWord_iec (a : DataAddr) (v : Word) : (s.putRamWord a v).iec = s.iec := by
  unfold State.putRamWord; split <;> simp
@[simp] theorem putRamWord_ipc (a : DataAddr) (v : Word) : (s.putRamWord a v).ipc = s.ipc := by
  unfold State.putRamWord; split <;> simp
@[simp] theorem putRamWord_disicnt (a : DataAddr) (v : Word) : (s.putRamWord a v).disicnt = s.disicnt := by
  unfold State.putRamWord; split <;> simp
@[simp] theorem putRamWord_trapr (a : DataAddr) (v : Word) : (s.putRamWord a v).trapr = s.trapr := by
  unfold State.putRamWord; split <;> simp
@[simp] theorem putRamWord_cf (a : DataAddr) (v : Word) : (s.putRamWord a v).cf = s.cf := by
  unfold State.putRamWord; split <;> simp
@[simp] theorem putRamWord_pcbuf (a : DataAddr) (v : Word) : (s.putRamWord a v).pcbuf = s.pcbuf := by
  unfold State.putRamWord; split <;> simp
@[simp] theorem putRamWord_srlbuf (a : DataAddr) (v : Word) : (s.putRamWord a v).srlbuf = s.srlbuf := by
  unfold State.putRamWord; split <;> simp
@[simp] theorem putRamWord_mode (a : DataAddr) (v : Word) : (s.putRamWord a v).mode = s.mode := by
  unfold State.putRamWord; split <;> simp
@[simp] theorem putRamWord_skidStack (a : DataAddr) (v : Word) : (s.putRamWord a v).skidStack = s.skidStack := by
  unfold State.putRamWord; split <;> simp
@[simp] theorem putRamWord_skidMath (a : DataAddr) (v : Word) : (s.putRamWord a v).skidMath = s.skidMath := by
  unfold State.putRamWord; split <;> simp
@[simp] theorem putRamWord_stallOsc (a : DataAddr) (v : Word) : (s.putRamWord a v).stallOsc = s.stallOsc := by
  unfold State.putRamWord; split <;> simp
@[simp] theorem putRamWord_stallAddr (a : DataAddr) (v : Word) : (s.putRamWord a v).stallAddr = s.stallAddr := by
  unfold State.putRamWord; split <;> simp
@[simp] theorem putRamWord_wrinh (a : DataAddr) (v : Word) : (s.putRamWord a v).wrinh = s.wrinh := by
  unfold State.putRamWord; split <;> simp
@[simp] theorem putRamWord_pinprev (a : DataAddr) (v : Word) : (s.putRamWord a v).pinprev = s.pinprev := by
  unfold State.putRamWord; split <;> simp
@[simp] theorem putRamWord_prog (a : DataAddr) (v : Word) : (s.putRamWord a v).prog = s.prog := by
  unfold State.putRamWord; split <;> simp
@[simp] theorem putRamWord_slot (a : DataAddr) (v : Word) : (s.putRamWord a v).slot = s.slot := by
  unfold State.putRamWord; split <;> simp
@[simp] theorem putRamWord_inputs (a : DataAddr) (v : Word) : (s.putRamWord a v).inputs = s.inputs := by
  unfold State.putRamWord; split <;> simp
@[simp] theorem putRamWord_freeCount (a : DataAddr) (v : Word) : (s.putRamWord a v).freeCount = s.freeCount := by
  unfold State.putRamWord; split <;> simp
@[simp] theorem putRamWord_epoch (a : DataAddr) (v : Word) : (s.putRamWord a v).epoch = s.epoch := by
  unfold State.putRamWord; split <;> simp

/-! ### storeSfr -/

@[simp] theorem storeSfr_cfg (r : Sfr) (v : Word) : (s.storeSfr r v).cfg = s.cfg := by
  cases r <;> simp [State.storeSfr]
@[simp] theorem storeSfr_pc (r : Sfr) (v : Word) : (s.storeSfr r v).pc = s.pc := by
  cases r <;> simp [State.storeSfr]
@[simp] theorem storeSfr_pcBeyond (r : Sfr) (v : Word) : (s.storeSfr r v).pcBeyond = s.pcBeyond := by
  cases r <;> simp [State.storeSfr]
@[simp] theorem storeSfr_pcbuf (r : Sfr) (v : Word) : (s.storeSfr r v).pcbuf = s.pcbuf := by
  cases r <;> simp [State.storeSfr]
@[simp] theorem storeSfr_srlbuf (r : Sfr) (v : Word) : (s.storeSfr r v).srlbuf = s.srlbuf := by
  cases r <;> simp [State.storeSfr]
@[simp] theorem storeSfr_mode (r : Sfr) (v : Word) : (s.storeSfr r v).mode = s.mode := by
  cases r <;> simp [State.storeSfr]
@[simp] theorem storeSfr_skidStack (r : Sfr) (v : Word) : (s.storeSfr r v).skidStack = s.skidStack := by
  cases r <;> simp [State.storeSfr]
@[simp] theorem storeSfr_skidMath (r : Sfr) (v : Word) : (s.storeSfr r v).skidMath = s.skidMath := by
  cases r <;> simp [State.storeSfr]
@[simp] theorem storeSfr_stallOsc (r : Sfr) (v : Word) : (s.storeSfr r v).stallOsc = s.stallOsc := by
  cases r <;> simp [State.storeSfr]
@[simp] theorem storeSfr_stallAddr (r : Sfr) (v : Word) : (s.storeSfr r v).stallAddr = s.stallAddr := by
  cases r <;> simp [State.storeSfr]
@[simp] theorem storeSfr_pinprev (r : Sfr) (v : Word) : (s.storeSfr r v).pinprev = s.pinprev := by
  cases r <;> simp [State.storeSfr]
@[simp] theorem storeSfr_mem (r : Sfr) (v : Word) : (s.storeSfr r v).mem = s.mem := by
  cases r <;> simp [State.storeSfr]
@[simp] theorem storeSfr_prog (r : Sfr) (v : Word) : (s.storeSfr r v).prog = s.prog := by
  cases r <;> simp [State.storeSfr]
@[simp] theorem storeSfr_inputs (r : Sfr) (v : Word) : (s.storeSfr r v).inputs = s.inputs := by
  cases r <;> simp [State.storeSfr]
@[simp] theorem storeSfr_freeCount (r : Sfr) (v : Word) : (s.storeSfr r v).freeCount = s.freeCount := by
  cases r <;> simp [State.storeSfr]
@[simp] theorem storeSfr_epoch (r : Sfr) (v : Word) : (s.storeSfr r v).epoch = s.epoch := by
  cases r <;> simp [State.storeSfr]

/-! ### swrite -/

@[simp] theorem swrite_cfg (r : Sfr) (v : Word) : (s.swrite r v).cfg = s.cfg := by
  simp [State.swrite]
@[simp] theorem swrite_pc (r : Sfr) (v : Word) : (s.swrite r v).pc = s.pc := by
  simp [State.swrite]
@[simp] theorem swrite_pcBeyond (r : Sfr) (v : Word) : (s.swrite r v).pcBeyond = s.pcBeyond := by
  simp [State.swrite]
@[simp] theorem swrite_pcbuf (r : Sfr) (v : Word) : (s.swrite r v).pcbuf = s.pcbuf := by
  simp [State.swrite]
@[simp] theorem swrite_srlbuf (r : Sfr) (v : Word) : (s.swrite r v).srlbuf = s.srlbuf := by
  simp [State.swrite]
@[simp] theorem swrite_mode (r : Sfr) (v : Word) : (s.swrite r v).mode = s.mode := by
  simp [State.swrite]
@[simp] theorem swrite_skidStack (r : Sfr) (v : Word) : (s.swrite r v).skidStack = s.skidStack := by
  simp [State.swrite]
@[simp] theorem swrite_skidMath (r : Sfr) (v : Word) : (s.swrite r v).skidMath = s.skidMath := by
  simp [State.swrite]
@[simp] theorem swrite_stallOsc (r : Sfr) (v : Word) : (s.swrite r v).stallOsc = s.stallOsc := by
  simp [State.swrite]
@[simp] theorem swrite_stallAddr (r : Sfr) (v : Word) : (s.swrite r v).stallAddr = s.stallAddr := by
  simp [State.swrite]
@[simp] theorem swrite_pinprev (r : Sfr) (v : Word) : (s.swrite r v).pinprev = s.pinprev := by
  simp [State.swrite]
@[simp] theorem swrite_mem (r : Sfr) (v : Word) : (s.swrite r v).mem = s.mem := by
  simp [State.swrite]
@[simp] theorem swrite_prog (r : Sfr) (v : Word) : (s.swrite r v).prog = s.prog := by
  simp [State.swrite]
@[simp] theorem swrite_inputs (r : Sfr) (v : Word) : (s.swrite r v).inputs = s.inputs := by
  simp [State.swrite]
@[simp] theorem swrite_freeCount (r : Sfr) (v : Word) : (s.swrite r v).freeCount = s.freeCount := by
  simp [State.swrite]
@[simp] theorem swrite_epoch (r : Sfr) (v : Word) : (s.swrite r v).epoch = s.epoch := by
  simp [State.swrite]

/-! ### writeWord -/

@[simp] theorem writeWord_cfg (a : DataAddr) (v : Word) : (s.writeWord a v).cfg = s.cfg := by
  unfold State.writeWord; split <;> (try split) <;> (try split) <;> simp
@[simp] theorem writeWord_pc (a : DataAddr) (v : Word) : (s.writeWord a v).pc = s.pc := by
  unfold State.writeWord; split <;> (try split) <;> (try split) <;> simp
@[simp] theorem writeWord_pcBeyond (a : DataAddr) (v : Word) : (s.writeWord a v).pcBeyond = s.pcBeyond := by
  unfold State.writeWord; split <;> (try split) <;> (try split) <;> simp
@[simp] theorem writeWord_pcbuf (a : DataAddr) (v : Word) : (s.writeWord a v).pcbuf = s.pcbuf := by
  unfold State.writeWord; split <;> (try split) <;> (try split) <;> simp
@[simp] theorem writeWord_srlbuf (a : DataAddr) (v : Word) : (s.writeWord a v).srlbuf = s.srlbuf := by
  unfold State.writeWord; split <;> (try split) <;> (try split) <;> simp
@[simp] theorem writeWord_mode (a : DataAddr) (v : Word) : (s.writeWord a v).mode = s.mode := by
  unfold State.writeWord; split <;> (try split) <;> (try split) <;> simp
@[simp] theorem writeWord_skidStack (a : DataAddr) (v : Word) : (s.writeWord a v).skidStack = s.skidStack := by
  unfold State.writeWord; split <;> (try split) <;> (try split) <;> simp
@[simp] theorem writeWord_skidMath (a : DataAddr) (v : Word) : (s.writeWord a v).skidMath = s.skidMath := by
  unfold State.writeWord; split <;> (try split) <;> (try split) <;> simp
@[simp] theorem writeWord_stallOsc (a : DataAddr) (v : Word) : (s.writeWord a v).stallOsc = s.stallOsc := by
  unfold State.writeWord; split <;> (try split) <;> (try split) <;> simp
@[simp] theorem writeWord_stallAddr (a : DataAddr) (v : Word) : (s.writeWord a v).stallAddr = s.stallAddr := by
  unfold State.writeWord; split <;> (try split) <;> (try split) <;> simp
@[simp] theorem writeWord_pinprev (a : DataAddr) (v : Word) : (s.writeWord a v).pinprev = s.pinprev := by
  unfold State.writeWord; split <;> (try split) <;> (try split) <;> simp
@[simp] theorem writeWord_prog (a : DataAddr) (v : Word) : (s.writeWord a v).prog = s.prog := by
  unfold State.writeWord; split <;> (try split) <;> (try split) <;> simp
@[simp] theorem writeWord_inputs (a : DataAddr) (v : Word) : (s.writeWord a v).inputs = s.inputs := by
  unfold State.writeWord; split <;> (try split) <;> (try split) <;> simp
@[simp] theorem writeWord_freeCount (a : DataAddr) (v : Word) : (s.writeWord a v).freeCount = s.freeCount := by
  unfold State.writeWord; split <;> (try split) <;> (try split) <;> simp
@[simp] theorem writeWord_epoch (a : DataAddr) (v : Word) : (s.writeWord a v).epoch = s.epoch := by
  unfold State.writeWord; split <;> (try split) <;> (try split) <;> simp

/-! ### push16 -/

@[simp] theorem push16_cfg (v : Word) : (s.push16 v).cfg = s.cfg := by
  simp [State.push16]
@[simp] theorem push16_pc (v : Word) : (s.push16 v).pc = s.pc := by
  simp [State.push16]
@[simp] theorem push16_pcBeyond (v : Word) : (s.push16 v).pcBeyond = s.pcBeyond := by
  simp [State.push16]
@[simp] theorem push16_pcbuf (v : Word) : (s.push16 v).pcbuf = s.pcbuf := by
  simp [State.push16]
@[simp] theorem push16_srlbuf (v : Word) : (s.push16 v).srlbuf = s.srlbuf := by
  simp [State.push16]
@[simp] theorem push16_mode (v : Word) : (s.push16 v).mode = s.mode := by
  simp [State.push16]
@[simp] theorem push16_skidStack (v : Word) : (s.push16 v).skidStack = s.skidStack := by
  simp [State.push16]
@[simp] theorem push16_skidMath (v : Word) : (s.push16 v).skidMath = s.skidMath := by
  simp [State.push16]
@[simp] theorem push16_stallOsc (v : Word) : (s.push16 v).stallOsc = s.stallOsc := by
  simp [State.push16]
@[simp] theorem push16_stallAddr (v : Word) : (s.push16 v).stallAddr = s.stallAddr := by
  simp [State.push16]
@[simp] theorem push16_pinprev (v : Word) : (s.push16 v).pinprev = s.pinprev := by
  simp [State.push16]
@[simp] theorem push16_prog (v : Word) : (s.push16 v).prog = s.prog := by
  simp [State.push16]
@[simp] theorem push16_inputs (v : Word) : (s.push16 v).inputs = s.inputs := by
  simp [State.push16]
@[simp] theorem push16_freeCount (v : Word) : (s.push16 v).freeCount = s.freeCount := by
  simp [State.push16]
@[simp] theorem push16_epoch (v : Word) : (s.push16 v).epoch = s.epoch := by
  simp [State.push16]

/-! ### pop16_snd -/

@[simp] theorem pop16_snd_cfg : s.pop16.2.cfg = s.cfg := by
  simp [State.pop16]
@[simp] theorem pop16_snd_pc : s.pop16.2.pc = s.pc := by
  simp [State.pop16]
@[simp] theorem pop16_snd_pcBeyond : s.pop16.2.pcBeyond = s.pcBeyond := by
  simp [State.pop16]
@[simp] theorem pop16_snd_splim : s.pop16.2.splim = s.splim := by
  simp [State.pop16]
@[simp] theorem pop16_snd_splimEn : s.pop16.2.splimEn = s.splimEn := by
  simp [State.pop16]
@[simp] theorem pop16_snd_sr : s.pop16.2.sr = s.sr := by
  simp [State.pop16]
@[simp] theorem pop16_snd_corcon : s.pop16.2.corcon = s.corcon := by
  simp [State.pop16]
@[simp] theorem pop16_snd_intcon1 : s.pop16.2.intcon1 = s.intcon1 := by
  simp [State.pop16]
@[simp] theorem pop16_snd_intcon2 : s.pop16.2.intcon2 = s.intcon2 := by
  simp [State.pop16]
@[simp] theorem pop16_snd_ifs : s.pop16.2.ifs = s.ifs := by
  simp [State.pop16]
@[simp] theorem pop16_snd_iec : s.pop16.2.iec = s.iec := by
  simp [State.pop16]
@[simp] theorem pop16_snd_ipc : s.pop16.2.ipc = s.ipc := by
  simp [State.pop16]
@[simp] theorem pop16_snd_disicnt : s.pop16.2.disicnt = s.disicnt := by
  simp [State.pop16]
@[simp] theorem pop16_snd_trapr : s.pop16.2.trapr = s.trapr := by
  simp [State.pop16]
@[simp] theorem pop16_snd_cf : s.pop16.2.cf = s.cf := by
  simp [State.pop16]
@[simp] theorem pop16_snd_pcbuf : s.pop16.2.pcbuf = s.pcbuf := by
  simp [State.pop16]
@[simp] theorem pop16_snd_srlbuf : s.pop16.2.srlbuf = s.srlbuf := by
  simp [State.pop16]
@[simp] theorem pop16_snd_mode : s.pop16.2.mode = s.mode := by
  simp [State.pop16]
@[simp] theorem pop16_snd_skidStack : s.pop16.2.skidStack = s.skidStack := by
  simp [State.pop16]
@[simp] theorem pop16_snd_skidMath : s.pop16.2.skidMath = s.skidMath := by
  simp [State.pop16]
@[simp] theorem pop16_snd_stallOsc : s.pop16.2.stallOsc = s.stallOsc := by
  simp [State.pop16]
@[simp] theorem pop16_snd_stallAddr : s.pop16.2.stallAddr = s.stallAddr := by
  simp [State.pop16]
@[simp] theorem pop16_snd_pinprev : s.pop16.2.pinprev = s.pinprev := by
  simp [State.pop16]
@[simp] theorem pop16_snd_mem : s.pop16.2.mem = s.mem := by
  simp [State.pop16]
@[simp] theorem pop16_snd_prog : s.pop16.2.prog = s.prog := by
  simp [State.pop16]
@[simp] theorem pop16_snd_inputs : s.pop16.2.inputs = s.inputs := by
  simp [State.pop16]
@[simp] theorem pop16_snd_epoch : s.pop16.2.epoch = s.epoch := by
  simp [State.pop16]

/-! ### popFrame_state -/

@[simp] theorem popFrame_state_cfg : s.popFrame.2.2.cfg = s.cfg := by
  simp [State.popFrame]
@[simp] theorem popFrame_state_pc : s.popFrame.2.2.pc = s.pc := by
  simp [State.popFrame]
@[simp] theorem popFrame_state_pcBeyond : s.popFrame.2.2.pcBeyond = s.pcBeyond := by
  simp [State.popFrame]
@[simp] theorem popFrame_state_splim : s.popFrame.2.2.splim = s.splim := by
  simp [State.popFrame]
@[simp] theorem popFrame_state_splimEn : s.popFrame.2.2.splimEn = s.splimEn := by
  simp [State.popFrame]
@[simp] theorem popFrame_state_sr : s.popFrame.2.2.sr = s.sr := by
  simp [State.popFrame]
@[simp] theorem popFrame_state_corcon : s.popFrame.2.2.corcon = s.corcon := by
  simp [State.popFrame]
@[simp] theorem popFrame_state_intcon1 : s.popFrame.2.2.intcon1 = s.intcon1 := by
  simp [State.popFrame]
@[simp] theorem popFrame_state_intcon2 : s.popFrame.2.2.intcon2 = s.intcon2 := by
  simp [State.popFrame]
@[simp] theorem popFrame_state_ifs : s.popFrame.2.2.ifs = s.ifs := by
  simp [State.popFrame]
@[simp] theorem popFrame_state_iec : s.popFrame.2.2.iec = s.iec := by
  simp [State.popFrame]
@[simp] theorem popFrame_state_ipc : s.popFrame.2.2.ipc = s.ipc := by
  simp [State.popFrame]
@[simp] theorem popFrame_state_disicnt : s.popFrame.2.2.disicnt = s.disicnt := by
  simp [State.popFrame]
@[simp] theorem popFrame_state_trapr : s.popFrame.2.2.trapr = s.trapr := by
  simp [State.popFrame]
@[simp] theorem popFrame_state_cf : s.popFrame.2.2.cf = s.cf := by
  simp [State.popFrame]
@[simp] theorem popFrame_state_pcbuf : s.popFrame.2.2.pcbuf = s.pcbuf := by
  simp [State.popFrame]
@[simp] theorem popFrame_state_srlbuf : s.popFrame.2.2.srlbuf = s.srlbuf := by
  simp [State.popFrame]
@[simp] theorem popFrame_state_mode : s.popFrame.2.2.mode = s.mode := by
  simp [State.popFrame]
@[simp] theorem popFrame_state_skidStack : s.popFrame.2.2.skidStack = s.skidStack := by
  simp [State.popFrame]
@[simp] theorem popFrame_state_skidMath : s.popFrame.2.2.skidMath = s.skidMath := by
  simp [State.popFrame]
@[simp] theorem popFrame_state_stallOsc : s.popFrame.2.2.stallOsc = s.stallOsc := by
  simp [State.popFrame]
@[simp] theorem popFrame_state_stallAddr : s.popFrame.2.2.stallAddr = s.stallAddr := by
  simp [State.popFrame]
@[simp] theorem popFrame_state_pinprev : s.popFrame.2.2.pinprev = s.pinprev := by
  simp [State.popFrame]
@[simp] theorem popFrame_state_mem : s.popFrame.2.2.mem = s.mem := by
  simp [State.popFrame]
@[simp] theorem popFrame_state_prog : s.popFrame.2.2.prog = s.prog := by
  simp [State.popFrame]
@[simp] theorem popFrame_state_inputs : s.popFrame.2.2.inputs = s.inputs := by
  simp [State.popFrame]
@[simp] theorem popFrame_state_epoch : s.popFrame.2.2.epoch = s.epoch := by
  simp [State.popFrame]

/-! ### progRead_snd -/

@[simp] theorem progRead_snd_cfg (a : ProgAddr) : (s.progRead a).2.cfg = s.cfg := by
  unfold State.progRead; split <;> rfl
@[simp] theorem progRead_snd_pc (a : ProgAddr) : (s.progRead a).2.pc = s.pc := by
  unfold State.progRead; split <;> rfl
@[simp] theorem progRead_snd_pcBeyond (a : ProgAddr) : (s.progRead a).2.pcBeyond = s.pcBeyond := by
  unfold State.progRead; split <;> rfl
@[simp] theorem progRead_snd_w (a : ProgAddr) : (s.progRead a).2.w = s.w := by
  unfold State.progRead; split <;> rfl
@[simp] theorem progRead_snd_splim (a : ProgAddr) : (s.progRead a).2.splim = s.splim := by
  unfold State.progRead; split <;> rfl
@[simp] theorem progRead_snd_splimEn (a : ProgAddr) : (s.progRead a).2.splimEn = s.splimEn := by
  unfold State.progRead; split <;> rfl
@[simp] theorem progRead_snd_sr (a : ProgAddr) : (s.progRead a).2.sr = s.sr := by
  unfold State.progRead; split <;> rfl
@[simp] theorem progRead_snd_corcon (a : ProgAddr) : (s.progRead a).2.corcon = s.corcon := by
  unfold State.progRead; split <;> rfl
@[simp] theorem progRead_snd_intcon1 (a : ProgAddr) : (s.progRead a).2.intcon1 = s.intcon1 := by
  unfold State.progRead; split <;> rfl
@[simp] theorem progRead_snd_intcon2 (a : ProgAddr) : (s.progRead a).2.intcon2 = s.intcon2 := by
  unfold State.progRead; split <;> rfl
@[simp] theorem progRead_snd_ifs (a : ProgAddr) : (s.progRead a).2.ifs = s.ifs := by
  unfold State.progRead; split <;> rfl
@[simp] theorem progRead_snd_iec (a : ProgAddr) : (s.progRead a).2.iec = s.iec := by
  unfold State.progRead; split <;> rfl
@[simp] theorem progRead_snd_ipc (a : ProgAddr) : (s.progRead a).2.ipc = s.ipc := by
  unfold State.progRead; split <;> rfl
@[simp] theorem progRead_snd_disicnt (a : ProgAddr) : (s.progRead a).2.disicnt = s.disicnt := by
  unfold State.progRead; split <;> rfl
@[simp] theorem progRead_snd_trapr (a : ProgAddr) : (s.progRead a).2.trapr = s.trapr := by
  unfold State.progRead; split <;> rfl
@[simp] theorem progRead_snd_cf (a : ProgAddr) : (s.progRead a).2.cf = s.cf := by
  unfold State.progRead; split <;> rfl
@[simp] theorem progRead_snd_pcbuf (a : ProgAddr) : (s.progRead a).2.pcbuf = s.pcbuf := by
  unfold State.progRead; split <;> rfl
@[simp] theorem progRead_snd_srlbuf (a : ProgAddr) : (s.progRead a).2.srlbuf = s.srlbuf := by
  unfold State.progRead; split <;> rfl
@[simp] theorem progRead_snd_mode (a : ProgAddr) : (s.progRead a).2.mode = s.mode := by
  unfold State.progRead; split <;> rfl
@[simp] theorem progRead_snd_skidStack (a : ProgAddr) : (s.progRead a).2.skidStack = s.skidStack := by
  unfold State.progRead; split <;> rfl
@[simp] theorem progRead_snd_skidMath (a : ProgAddr) : (s.progRead a).2.skidMath = s.skidMath := by
  unfold State.progRead; split <;> rfl
@[simp] theorem progRead_snd_stallOsc (a : ProgAddr) : (s.progRead a).2.stallOsc = s.stallOsc := by
  unfold State.progRead; split <;> rfl
@[simp] theorem progRead_snd_stallAddr (a : ProgAddr) : (s.progRead a).2.stallAddr = s.stallAddr := by
  unfold State.progRead; split <;> rfl
@[simp] theorem progRead_snd_wrinh (a : ProgAddr) : (s.progRead a).2.wrinh = s.wrinh := by
  unfold State.progRead; split <;> rfl
@[simp] theorem progRead_snd_pinprev (a : ProgAddr) : (s.progRead a).2.pinprev = s.pinprev := by
  unfold State.progRead; split <;> rfl
@[simp] theorem progRead_snd_mem (a : ProgAddr) : (s.progRead a).2.mem = s.mem := by
  unfold State.progRead; split <;> rfl
@[simp] theorem progRead_snd_prog (a : ProgAddr) : (s.progRead a).2.prog = s.prog := by
  unfold State.progRead; split <;> rfl
@[simp] theorem progRead_snd_slot (a : ProgAddr) : (s.progRead a).2.slot = s.slot := by
  unfold State.progRead; split <;> rfl
@[simp] theorem progRead_snd_inputs (a : ProgAddr) : (s.progRead a).2.inputs = s.inputs := by
  unfold State.progRead; split <;> rfl
@[simp] theorem progRead_snd_epoch (a : ProgAddr) : (s.progRead a).2.epoch = s.epoch := by
  unfold State.progRead; split <;> rfl

/-! ### enterPriority -/

@[simp] theorem enterPriority_cfg (src : Source) (p : Nat) : (s.enterPriority src p).cfg = s.cfg := by
  cases src <;> rfl
@[simp] theorem enterPriority_pc (src : Source) (p : Nat) : (s.enterPriority src p).pc = s.pc := by
  cases src <;> rfl
@[simp] theorem enterPriority_pcBeyond (src : Source) (p : Nat) : (s.enterPriority src p).pcBeyond = s.pcBeyond := by
  cases src <;> rfl
@[simp] theorem enterPriority_w (src : Source) (p : Nat) : (s.enterPriority src p).w = s.w := by
  cases src <;> rfl
@[simp] theorem enterPriority_splim (src : Source) (p : Nat) : (s.enterPriority src p).splim = s.splim := by
  cases src <;> rfl
@[simp] theorem enterPriority_splimEn (src : Source) (p : Nat) : (s.enterPriority src p).splimEn = s.splimEn := by
  cases src <;> rfl
@[simp] theorem enterPriority_intcon1 (src : Source) (p : Nat) : (s.enterPriority src p).intcon1 = s.intcon1 := by
  cases src <;> rfl
@[simp] theorem enterPriority_intcon2 (src : Source) (p : Nat) : (s.enterPriority src p).intcon2 = s.intcon2 := by
  cases src <;> rfl
@[simp] theorem enterPriority_ifs (src : Source) (p : Nat) : (s.enterPriority src p).ifs = s.ifs := by
  cases src <;> rfl
@[simp] theorem enterPriority_iec (src : Source) (p : Nat) : (s.enterPriority src p).iec = s.iec := by
  cases src <;> rfl
@[simp] theorem enterPriority_ipc (src : Source) (p : Nat) : (s.enterPriority src p).ipc = s.ipc := by
  cases src <;> rfl
@[simp] theorem enterPriority_disicnt (src : Source) (p : Nat) : (s.enterPriority src p).disicnt = s.disicnt := by
  cases src <;> rfl
@[simp] theorem enterPriority_trapr (src : Source) (p : Nat) : (s.enterPriority src p).trapr = s.trapr := by
  cases src <;> rfl
@[simp] theorem enterPriority_cf (src : Source) (p : Nat) : (s.enterPriority src p).cf = s.cf := by
  cases src <;> rfl
@[simp] theorem enterPriority_pcbuf (src : Source) (p : Nat) : (s.enterPriority src p).pcbuf = s.pcbuf := by
  cases src <;> rfl
@[simp] theorem enterPriority_srlbuf (src : Source) (p : Nat) : (s.enterPriority src p).srlbuf = s.srlbuf := by
  cases src <;> rfl
@[simp] theorem enterPriority_mode (src : Source) (p : Nat) : (s.enterPriority src p).mode = s.mode := by
  cases src <;> rfl
@[simp] theorem enterPriority_skidStack (src : Source) (p : Nat) : (s.enterPriority src p).skidStack = s.skidStack := by
  cases src <;> rfl
@[simp] theorem enterPriority_skidMath (src : Source) (p : Nat) : (s.enterPriority src p).skidMath = s.skidMath := by
  cases src <;> rfl
@[simp] theorem enterPriority_stallOsc (src : Source) (p : Nat) : (s.enterPriority src p).stallOsc = s.stallOsc := by
  cases src <;> rfl
@[simp] theorem enterPriority_stallAddr (src : Source) (p : Nat) : (s.enterPriority src p).stallAddr = s.stallAddr := by
  cases src <;> rfl
@[simp] theorem enterPriority_wrinh (src : Source) (p : Nat) : (s.enterPriority src p).wrinh = s.wrinh := by
  cases src <;> rfl
@[simp] theorem enterPriority_pinprev (src : Source) (p : Nat) : (s.enterPriority src p).pinprev = s.pinprev := by
  cases src <;> rfl
@[simp] theorem enterPriority_mem (src : Source) (p : Nat) : (s.enterPriority src p).mem = s.mem := by
  cases src <;> rfl
@[simp] theorem enterPriority_prog (src : Source) (p : Nat) : (s.enterPriority src p).prog = s.prog := by
  cases src <;> rfl
@[simp] theorem enterPriority_slot (src : Source) (p : Nat) : (s.enterPriority src p).slot = s.slot := by
  cases src <;> rfl
@[simp] theorem enterPriority_inputs (src : Source) (p : Nat) : (s.enterPriority src p).inputs = s.inputs := by
  cases src <;> rfl
@[simp] theorem enterPriority_freeCount (src : Source) (p : Nat) : (s.enterPriority src p).freeCount = s.freeCount := by
  cases src <;> rfl
@[simp] theorem enterPriority_epoch (src : Source) (p : Nat) : (s.enterPriority src p).epoch = s.epoch := by
  cases src <;> rfl

/-! ### loadVector -/

@[simp] theorem loadVector_cfg (k : Nat) : (s.loadVector k).cfg = s.cfg := by
  simp [State.loadVector]
@[simp] theorem loadVector_w (k : Nat) : (s.loadVector k).w = s.w := by
  simp [State.loadVector]
@[simp] theorem loadVector_splim (k : Nat) : (s.loadVector k).splim = s.splim := by
  simp [State.loadVector]
@[simp] theorem loadVector_splimEn (k : Nat) : (s.loadVector k).splimEn = s.splimEn := by
  simp [State.loadVector]
@[simp] theorem loadVector_sr (k : Nat) : (s.loadVector k).sr = s.sr := by
  simp [State.loadVector]
@[simp] theorem loadVector_corcon (k : Nat) : (s.loadVector k).corcon = s.corcon := by
  simp [State.loadVector]
@[simp] theorem loadVector_intcon1 (k : Nat) : (s.loadVector k).intcon1 = s.intcon1 := by
  simp [State.loadVector]
@[simp] theorem loadVector_intcon2 (k : Nat) : (s.loadVector k).intcon2 = s.intcon2 := by
  simp [State.loadVector]
@[simp] theorem loadVector_ifs (k : Nat) : (s.loadVector k).ifs = s.ifs := by
  simp [State.loadVector]
@[simp] theorem loadVector_iec (k : Nat) : (s.loadVector k).iec = s.iec := by
  simp [State.loadVector]
@[simp] theorem loadVector_ipc (k : Nat) : (s.loadVector k).ipc = s.ipc := by
  simp [State.loadVector]
@[simp] theorem loadVector_disicnt (k : Nat) : (s.loadVector k).disicnt = s.disicnt := by
  simp [State.loadVector]
@[simp] theorem loadVector_trapr (k : Nat) : (s.loadVector k).trapr = s.trapr := by
  simp [State.loadVector]
@[simp] theorem loadVector_cf (k : Nat) : (s.loadVector k).cf = s.cf := by
  simp [State.loadVector]
@[simp] theorem loadVector_pcbuf (k : Nat) : (s.loadVector k).pcbuf = s.pcbuf := by
  simp [State.loadVector]
@[simp] theorem loadVector_srlbuf (k : Nat) : (s.loadVector k).srlbuf = s.srlbuf := by
  simp [State.loadVector]
@[simp] theorem loadVector_mode (k : Nat) : (s.loadVector k).mode = s.mode := by
  simp [State.loadVector]
@[simp] theorem loadVector_skidStack (k : Nat) : (s.loadVector k).skidStack = s.skidStack := by
  simp [State.loadVector]
@[simp] theorem loadVector_skidMath (k : Nat) : (s.loadVector k).skidMath = s.skidMath := by
  simp [State.loadVector]
@[simp] theorem loadVector_stallOsc (k : Nat) : (s.loadVector k).stallOsc = s.stallOsc := by
  simp [State.loadVector]
@[simp] theorem loadVector_stallAddr (k : Nat) : (s.loadVector k).stallAddr = s.stallAddr := by
  simp [State.loadVector]
@[simp] theorem loadVector_pcBeyond (k : Nat) : (s.loadVector k).pcBeyond = false := by
  simp [State.loadVector]
@[simp] theorem loadVector_wrinh (k : Nat) : (s.loadVector k).wrinh = s.wrinh := by
  simp [State.loadVector]
@[simp] theorem loadVector_pinprev (k : Nat) : (s.loadVector k).pinprev = s.pinprev := by
  simp [State.loadVector]
@[simp] theorem loadVector_mem (k : Nat) : (s.loadVector k).mem = s.mem := by
  simp [State.loadVector]
@[simp] theorem loadVector_prog (k : Nat) : (s.loadVector k).prog = s.prog := by
  simp [State.loadVector]
@[simp] theorem loadVector_slot (k : Nat) : (s.loadVector k).slot = s.slot := by
  simp [State.loadVector]
@[simp] theorem loadVector_inputs (k : Nat) : (s.loadVector k).inputs = s.inputs := by
  simp [State.loadVector]
@[simp] theorem loadVector_epoch (k : Nat) : (s.loadVector k).epoch = s.epoch := by
  simp [State.loadVector]

/-! ### pushFrame -/

@[simp] theorem pushFrame_cfg : s.pushFrame.cfg = s.cfg := by
  simp [State.pushFrame]
@[simp] theorem pushFrame_pc : s.pushFrame.pc = s.pc := by
  simp [State.pushFrame]
@[simp] theorem pushFrame_pcBeyond : s.pushFrame.pcBeyond = s.pcBeyond := by
  simp [State.pushFrame]
@[simp] theorem pushFrame_mode : s.pushFrame.mode = s.mode := by
  simp [State.pushFrame]
@[simp] theorem pushFrame_skidStack : s.pushFrame.skidStack = s.skidStack := by
  simp [State.pushFrame]
@[simp] theorem pushFrame_skidMath : s.pushFrame.skidMath = s.skidMath := by
  simp [State.pushFrame]
@[simp] theorem pushFrame_stallOsc : s.pushFrame.stallOsc = s.stallOsc := by
  simp [State.pushFrame]
@[simp] theorem pushFrame_stallAddr : s.pushFrame.stallAddr = s.stallAddr := by
  simp [State.pushFrame]
@[simp] theorem pushFrame_pinprev : s.pushFrame.pinprev = s.pinprev := by
  simp [State.pushFrame]
@[simp] theorem pushFrame_prog : s.pushFrame.prog = s.prog := by
  simp [State.pushFrame]
@[simp] theorem pushFrame_inputs : s.pushFrame.inputs = s.inputs := by
  simp [State.pushFrame]
@[simp] theorem pushFrame_freeCount : s.pushFrame.freeCount = s.freeCount := by
  simp [State.pushFrame]
@[simp] theorem pushFrame_epoch : s.pushFrame.epoch = s.epoch := by
  simp [State.pushFrame]

/-! ### enter -/

@[simp] theorem enter_cfg (src : Source) : (s.enter src).cfg = s.cfg := by
  simp [State.enter]
@[simp] theorem enter_pcBeyond (src : Source) : (s.enter src).pcBeyond = false := by
  simp [State.enter]
@[simp] theorem enter_skidStack (src : Source) : (s.enter src).skidStack = s.skidStack := by
  simp [State.enter]
@[simp] theorem enter_skidMath (src : Source) : (s.enter src).skidMath = s.skidMath := by
  simp [State.enter]
@[simp] theorem enter_pinprev (src : Source) : (s.enter src).pinprev = s.pinprev := by
  simp [State.enter]
@[simp] theorem enter_prog (src : Source) : (s.enter src).prog = s.prog := by
  simp [State.enter]
@[simp] theorem enter_inputs (src : Source) : (s.enter src).inputs = s.inputs := by
  simp [State.enter]
@[simp] theorem enter_epoch (src : Source) : (s.enter src).epoch = s.epoch := by
  simp [State.enter]

/-! ### requestIrq -/

@[simp] theorem requestIrq_cfg (v : Vec) : (s.requestIrq v).cfg = s.cfg := by
  unfold State.requestIrq; split <;> rfl
@[simp] theorem requestIrq_pc (v : Vec) : (s.requestIrq v).pc = s.pc := by
  unfold State.requestIrq; split <;> rfl
@[simp] theorem requestIrq_pcBeyond (v : Vec) : (s.requestIrq v).pcBeyond = s.pcBeyond := by
  unfold State.requestIrq; split <;> rfl
@[simp] theorem requestIrq_w (v : Vec) : (s.requestIrq v).w = s.w := by
  unfold State.requestIrq; split <;> rfl
@[simp] theorem requestIrq_splim (v : Vec) : (s.requestIrq v).splim = s.splim := by
  unfold State.requestIrq; split <;> rfl
@[simp] theorem requestIrq_splimEn (v : Vec) : (s.requestIrq v).splimEn = s.splimEn := by
  unfold State.requestIrq; split <;> rfl
@[simp] theorem requestIrq_sr (v : Vec) : (s.requestIrq v).sr = s.sr := by
  unfold State.requestIrq; split <;> rfl
@[simp] theorem requestIrq_corcon (v : Vec) : (s.requestIrq v).corcon = s.corcon := by
  unfold State.requestIrq; split <;> rfl
@[simp] theorem requestIrq_intcon1 (v : Vec) : (s.requestIrq v).intcon1 = s.intcon1 := by
  unfold State.requestIrq; split <;> rfl
@[simp] theorem requestIrq_intcon2 (v : Vec) : (s.requestIrq v).intcon2 = s.intcon2 := by
  unfold State.requestIrq; split <;> rfl
@[simp] theorem requestIrq_iec (v : Vec) : (s.requestIrq v).iec = s.iec := by
  unfold State.requestIrq; split <;> rfl
@[simp] theorem requestIrq_ipc (v : Vec) : (s.requestIrq v).ipc = s.ipc := by
  unfold State.requestIrq; split <;> rfl
@[simp] theorem requestIrq_disicnt (v : Vec) : (s.requestIrq v).disicnt = s.disicnt := by
  unfold State.requestIrq; split <;> rfl
@[simp] theorem requestIrq_trapr (v : Vec) : (s.requestIrq v).trapr = s.trapr := by
  unfold State.requestIrq; split <;> rfl
@[simp] theorem requestIrq_cf (v : Vec) : (s.requestIrq v).cf = s.cf := by
  unfold State.requestIrq; split <;> rfl
@[simp] theorem requestIrq_pcbuf (v : Vec) : (s.requestIrq v).pcbuf = s.pcbuf := by
  unfold State.requestIrq; split <;> rfl
@[simp] theorem requestIrq_srlbuf (v : Vec) : (s.requestIrq v).srlbuf = s.srlbuf := by
  unfold State.requestIrq; split <;> rfl
@[simp] theorem requestIrq_mode (v : Vec) : (s.requestIrq v).mode = s.mode := by
  unfold State.requestIrq; split <;> rfl
@[simp] theorem requestIrq_skidStack (v : Vec) : (s.requestIrq v).skidStack = s.skidStack := by
  unfold State.requestIrq; split <;> rfl
@[simp] theorem requestIrq_skidMath (v : Vec) : (s.requestIrq v).skidMath = s.skidMath := by
  unfold State.requestIrq; split <;> rfl
@[simp] theorem requestIrq_stallOsc (v : Vec) : (s.requestIrq v).stallOsc = s.stallOsc := by
  unfold State.requestIrq; split <;> rfl
@[simp] theorem requestIrq_stallAddr (v : Vec) : (s.requestIrq v).stallAddr = s.stallAddr := by
  unfold State.requestIrq; split <;> rfl
@[simp] theorem requestIrq_wrinh (v : Vec) : (s.requestIrq v).wrinh = s.wrinh := by
  unfold State.requestIrq; split <;> rfl
@[simp] theorem requestIrq_pinprev (v : Vec) : (s.requestIrq v).pinprev = s.pinprev := by
  unfold State.requestIrq; split <;> rfl
@[simp] theorem requestIrq_mem (v : Vec) : (s.requestIrq v).mem = s.mem := by
  unfold State.requestIrq; split <;> rfl
@[simp] theorem requestIrq_prog (v : Vec) : (s.requestIrq v).prog = s.prog := by
  unfold State.requestIrq; split <;> rfl
@[simp] theorem requestIrq_slot (v : Vec) : (s.requestIrq v).slot = s.slot := by
  unfold State.requestIrq; split <;> rfl
@[simp] theorem requestIrq_inputs (v : Vec) : (s.requestIrq v).inputs = s.inputs := by
  unfold State.requestIrq; split <;> rfl
@[simp] theorem requestIrq_freeCount (v : Vec) : (s.requestIrq v).freeCount = s.freeCount := by
  unfold State.requestIrq; split <;> rfl
@[simp] theorem requestIrq_epoch (v : Vec) : (s.requestIrq v).epoch = s.epoch := by
  unfold State.requestIrq; split <;> rfl

/-! ### detectEdge -/

@[simp] theorem detectEdge_cfg (p : BitVec 5) (x : Fin 5) : (s.detectEdge p x).cfg = s.cfg := by
  unfold State.detectEdge; split <;> simp
@[simp] theorem detectEdge_pc (p : BitVec 5) (x : Fin 5) : (s.detectEdge p x).pc = s.pc := by
  unfold State.detectEdge; split <;> simp
@[simp] theorem detectEdge_pcBeyond (p : BitVec 5) (x : Fin 5) : (s.detectEdge p x).pcBeyond = s.pcBeyond := by
  unfold State.detectEdge; split <;> simp
@[simp] theorem detectEdge_w (p : BitVec 5) (x : Fin 5) : (s.detectEdge p x).w = s.w := by
  unfold State.detectEdge; split <;> simp
@[simp] theorem detectEdge_splim (p : BitVec 5) (x : Fin 5) : (s.detectEdge p x).splim = s.splim := by
  unfold State.detectEdge; split <;> simp
@[simp] theorem detectEdge_splimEn (p : BitVec 5) (x : Fin 5) : (s.detectEdge p x).splimEn = s.splimEn := by
  unfold State.detectEdge; split <;> simp
@[simp] theorem detectEdge_sr (p : BitVec 5) (x : Fin 5) : (s.detectEdge p x).sr = s.sr := by
  unfold State.detectEdge; split <;> simp
@[simp] theorem detectEdge_corcon (p : BitVec 5) (x : Fin 5) : (s.detectEdge p x).corcon = s.corcon := by
  unfold State.detectEdge; split <;> simp
@[simp] theorem detectEdge_intcon1 (p : BitVec 5) (x : Fin 5) : (s.detectEdge p x).intcon1 = s.intcon1 := by
  unfold State.detectEdge; split <;> simp
@[simp] theorem detectEdge_intcon2 (p : BitVec 5) (x : Fin 5) : (s.detectEdge p x).intcon2 = s.intcon2 := by
  unfold State.detectEdge; split <;> simp
@[simp] theorem detectEdge_iec (p : BitVec 5) (x : Fin 5) : (s.detectEdge p x).iec = s.iec := by
  unfold State.detectEdge; split <;> simp
@[simp] theorem detectEdge_ipc (p : BitVec 5) (x : Fin 5) : (s.detectEdge p x).ipc = s.ipc := by
  unfold State.detectEdge; split <;> simp
@[simp] theorem detectEdge_disicnt (p : BitVec 5) (x : Fin 5) : (s.detectEdge p x).disicnt = s.disicnt := by
  unfold State.detectEdge; split <;> simp
@[simp] theorem detectEdge_trapr (p : BitVec 5) (x : Fin 5) : (s.detectEdge p x).trapr = s.trapr := by
  unfold State.detectEdge; split <;> simp
@[simp] theorem detectEdge_cf (p : BitVec 5) (x : Fin 5) : (s.detectEdge p x).cf = s.cf := by
  unfold State.detectEdge; split <;> simp
@[simp] theorem detectEdge_pcbuf (p : BitVec 5) (x : Fin 5) : (s.detectEdge p x).pcbuf = s.pcbuf := by
  unfold State.detectEdge; split <;> simp
@[simp] theorem detectEdge_srlbuf (p : BitVec 5) (x : Fin 5) : (s.detectEdge p x).srlbuf = s.srlbuf := by
  unfold State.detectEdge; split <;> simp
@[simp] theorem detectEdge_mode (p : BitVec 5) (x : Fin 5) : (s.detectEdge p x).mode = s.mode := by
  unfold State.detectEdge; split <;> simp
@[simp] theorem detectEdge_skidStack (p : BitVec 5) (x : Fin 5) : (s.detectEdge p x).skidStack = s.skidStack := by
  unfold State.detectEdge; split <;> simp
@[simp] theorem detectEdge_skidMath (p : BitVec 5) (x : Fin 5) : (s.detectEdge p x).skidMath = s.skidMath := by
  unfold State.detectEdge; split <;> simp
@[simp] theorem detectEdge_stallOsc (p : BitVec 5) (x : Fin 5) : (s.detectEdge p x).stallOsc = s.stallOsc := by
  unfold State.detectEdge; split <;> simp
@[simp] theorem detectEdge_stallAddr (p : BitVec 5) (x : Fin 5) : (s.detectEdge p x).stallAddr = s.stallAddr := by
  unfold State.detectEdge; split <;> simp
@[simp] theorem detectEdge_wrinh (p : BitVec 5) (x : Fin 5) : (s.detectEdge p x).wrinh = s.wrinh := by
  unfold State.detectEdge; split <;> simp
@[simp] theorem detectEdge_pinprev (p : BitVec 5) (x : Fin 5) : (s.detectEdge p x).pinprev = s.pinprev := by
  unfold State.detectEdge; split <;> simp
@[simp] theorem detectEdge_mem (p : BitVec 5) (x : Fin 5) : (s.detectEdge p x).mem = s.mem := by
  unfold State.detectEdge; split <;> simp
@[simp] theorem detectEdge_prog (p : BitVec 5) (x : Fin 5) : (s.detectEdge p x).prog = s.prog := by
  unfold State.detectEdge; split <;> simp
@[simp] theorem detectEdge_slot (p : BitVec 5) (x : Fin 5) : (s.detectEdge p x).slot = s.slot := by
  unfold State.detectEdge; split <;> simp
@[simp] theorem detectEdge_inputs (p : BitVec 5) (x : Fin 5) : (s.detectEdge p x).inputs = s.inputs := by
  unfold State.detectEdge; split <;> simp
@[simp] theorem detectEdge_freeCount (p : BitVec 5) (x : Fin 5) : (s.detectEdge p x).freeCount = s.freeCount := by
  unfold State.detectEdge; split <;> simp
@[simp] theorem detectEdge_epoch (p : BitVec 5) (x : Fin 5) : (s.detectEdge p x).epoch = s.epoch := by
  unfold State.detectEdge; split <;> simp

/-- A fold keeps what each of its steps keeps. -/
theorem foldl_keeps {α β γ : Type} (g : β → γ) (f : β → α → β) (h : ∀ b a, g (f b a) = g b) (l : List α) (b : β) :
    g (l.foldl f b) = g b := by
  induction l generalizing b with
  | nil => rfl
  | cons a l ih => rw [List.foldl_cons, ih, h]

@[simp] theorem cycleEvents_cfg (c : CycleInput) : (s.cycleEvents c).cfg = s.cfg := by
  unfold State.cycleEvents
  show ((List.finRange 5).foldl (fun t x => t.detectEdge c.pins x) (c.reqs.foldl State.requestIrq s)).cfg = s.cfg
  rw [foldl_keeps State.cfg _ (by simp), foldl_keeps State.cfg _ (by simp)]

@[simp] theorem cycleEvents_pc (c : CycleInput) : (s.cycleEvents c).pc = s.pc := by
  unfold State.cycleEvents
  show ((List.finRange 5).foldl (fun t x => t.detectEdge c.pins x) (c.reqs.foldl State.requestIrq s)).pc = s.pc
  rw [foldl_keeps State.pc _ (by simp), foldl_keeps State.pc _ (by simp)]
@[simp] theorem cycleEvents_pcBeyond (c : CycleInput) : (s.cycleEvents c).pcBeyond = s.pcBeyond := by
  unfold State.cycleEvents
  show ((List.finRange 5).foldl (fun t x => t.detectEdge c.pins x) (c.reqs.foldl State.requestIrq s)).pcBeyond = s.pcBeyond
  rw [foldl_keeps State.pcBeyond _ (by simp), foldl_keeps State.pcBeyond _ (by simp)]

@[simp] theorem cycleEvents_w (c : CycleInput) : (s.cycleEvents c).w = s.w := by
  unfold State.cycleEvents
  show ((List.finRange 5).foldl (fun t x => t.detectEdge c.pins x) (c.reqs.foldl State.requestIrq s)).w = s.w
  rw [foldl_keeps State.w _ (by simp), foldl_keeps State.w _ (by simp)]

@[simp] theorem cycleEvents_splim (c : CycleInput) : (s.cycleEvents c).splim = s.splim := by
  unfold State.cycleEvents
  show ((List.finRange 5).foldl (fun t x => t.detectEdge c.pins x) (c.reqs.foldl State.requestIrq s)).splim = s.splim
  rw [foldl_keeps State.splim _ (by simp), foldl_keeps State.splim _ (by simp)]

@[simp] theorem cycleEvents_splimEn (c : CycleInput) : (s.cycleEvents c).splimEn = s.splimEn := by
  unfold State.cycleEvents
  show ((List.finRange 5).foldl (fun t x => t.detectEdge c.pins x) (c.reqs.foldl State.requestIrq s)).splimEn = s.splimEn
  rw [foldl_keeps State.splimEn _ (by simp), foldl_keeps State.splimEn _ (by simp)]

@[simp] theorem cycleEvents_sr (c : CycleInput) : (s.cycleEvents c).sr = s.sr := by
  unfold State.cycleEvents
  show ((List.finRange 5).foldl (fun t x => t.detectEdge c.pins x) (c.reqs.foldl State.requestIrq s)).sr = s.sr
  rw [foldl_keeps State.sr _ (by simp), foldl_keeps State.sr _ (by simp)]

@[simp] theorem cycleEvents_corcon (c : CycleInput) : (s.cycleEvents c).corcon = s.corcon := by
  unfold State.cycleEvents
  show ((List.finRange 5).foldl (fun t x => t.detectEdge c.pins x) (c.reqs.foldl State.requestIrq s)).corcon = s.corcon
  rw [foldl_keeps State.corcon _ (by simp), foldl_keeps State.corcon _ (by simp)]

@[simp] theorem cycleEvents_intcon1 (c : CycleInput) : (s.cycleEvents c).intcon1 = s.intcon1 := by
  unfold State.cycleEvents
  show ((List.finRange 5).foldl (fun t x => t.detectEdge c.pins x) (c.reqs.foldl State.requestIrq s)).intcon1 = s.intcon1
  rw [foldl_keeps State.intcon1 _ (by simp), foldl_keeps State.intcon1 _ (by simp)]

@[simp] theorem cycleEvents_intcon2 (c : CycleInput) : (s.cycleEvents c).intcon2 = s.intcon2 := by
  unfold State.cycleEvents
  show ((List.finRange 5).foldl (fun t x => t.detectEdge c.pins x) (c.reqs.foldl State.requestIrq s)).intcon2 = s.intcon2
  rw [foldl_keeps State.intcon2 _ (by simp), foldl_keeps State.intcon2 _ (by simp)]

@[simp] theorem cycleEvents_iec (c : CycleInput) : (s.cycleEvents c).iec = s.iec := by
  unfold State.cycleEvents
  show ((List.finRange 5).foldl (fun t x => t.detectEdge c.pins x) (c.reqs.foldl State.requestIrq s)).iec = s.iec
  rw [foldl_keeps State.iec _ (by simp), foldl_keeps State.iec _ (by simp)]

@[simp] theorem cycleEvents_ipc (c : CycleInput) : (s.cycleEvents c).ipc = s.ipc := by
  unfold State.cycleEvents
  show ((List.finRange 5).foldl (fun t x => t.detectEdge c.pins x) (c.reqs.foldl State.requestIrq s)).ipc = s.ipc
  rw [foldl_keeps State.ipc _ (by simp), foldl_keeps State.ipc _ (by simp)]

@[simp] theorem cycleEvents_disicnt (c : CycleInput) : (s.cycleEvents c).disicnt = s.disicnt := by
  unfold State.cycleEvents
  show ((List.finRange 5).foldl (fun t x => t.detectEdge c.pins x) (c.reqs.foldl State.requestIrq s)).disicnt = s.disicnt
  rw [foldl_keeps State.disicnt _ (by simp), foldl_keeps State.disicnt _ (by simp)]

@[simp] theorem cycleEvents_trapr (c : CycleInput) : (s.cycleEvents c).trapr = s.trapr := by
  unfold State.cycleEvents
  show ((List.finRange 5).foldl (fun t x => t.detectEdge c.pins x) (c.reqs.foldl State.requestIrq s)).trapr = s.trapr
  rw [foldl_keeps State.trapr _ (by simp), foldl_keeps State.trapr _ (by simp)]

@[simp] theorem cycleEvents_cf (c : CycleInput) : (s.cycleEvents c).cf = s.cf := by
  unfold State.cycleEvents
  show ((List.finRange 5).foldl (fun t x => t.detectEdge c.pins x) (c.reqs.foldl State.requestIrq s)).cf = s.cf
  rw [foldl_keeps State.cf _ (by simp), foldl_keeps State.cf _ (by simp)]

@[simp] theorem cycleEvents_pcbuf (c : CycleInput) : (s.cycleEvents c).pcbuf = s.pcbuf := by
  unfold State.cycleEvents
  show ((List.finRange 5).foldl (fun t x => t.detectEdge c.pins x) (c.reqs.foldl State.requestIrq s)).pcbuf = s.pcbuf
  rw [foldl_keeps State.pcbuf _ (by simp), foldl_keeps State.pcbuf _ (by simp)]

@[simp] theorem cycleEvents_srlbuf (c : CycleInput) : (s.cycleEvents c).srlbuf = s.srlbuf := by
  unfold State.cycleEvents
  show ((List.finRange 5).foldl (fun t x => t.detectEdge c.pins x) (c.reqs.foldl State.requestIrq s)).srlbuf = s.srlbuf
  rw [foldl_keeps State.srlbuf _ (by simp), foldl_keeps State.srlbuf _ (by simp)]

@[simp] theorem cycleEvents_mode (c : CycleInput) : (s.cycleEvents c).mode = s.mode := by
  unfold State.cycleEvents
  show ((List.finRange 5).foldl (fun t x => t.detectEdge c.pins x) (c.reqs.foldl State.requestIrq s)).mode = s.mode
  rw [foldl_keeps State.mode _ (by simp), foldl_keeps State.mode _ (by simp)]

@[simp] theorem cycleEvents_skidStack (c : CycleInput) : (s.cycleEvents c).skidStack = s.skidStack := by
  unfold State.cycleEvents
  show ((List.finRange 5).foldl (fun t x => t.detectEdge c.pins x) (c.reqs.foldl State.requestIrq s)).skidStack = s.skidStack
  rw [foldl_keeps State.skidStack _ (by simp), foldl_keeps State.skidStack _ (by simp)]

@[simp] theorem cycleEvents_skidMath (c : CycleInput) : (s.cycleEvents c).skidMath = s.skidMath := by
  unfold State.cycleEvents
  show ((List.finRange 5).foldl (fun t x => t.detectEdge c.pins x) (c.reqs.foldl State.requestIrq s)).skidMath = s.skidMath
  rw [foldl_keeps State.skidMath _ (by simp), foldl_keeps State.skidMath _ (by simp)]

@[simp] theorem cycleEvents_stallOsc (c : CycleInput) : (s.cycleEvents c).stallOsc = s.stallOsc := by
  unfold State.cycleEvents
  show ((List.finRange 5).foldl (fun t x => t.detectEdge c.pins x) (c.reqs.foldl State.requestIrq s)).stallOsc = s.stallOsc
  rw [foldl_keeps State.stallOsc _ (by simp), foldl_keeps State.stallOsc _ (by simp)]

@[simp] theorem cycleEvents_stallAddr (c : CycleInput) : (s.cycleEvents c).stallAddr = s.stallAddr := by
  unfold State.cycleEvents
  show ((List.finRange 5).foldl (fun t x => t.detectEdge c.pins x) (c.reqs.foldl State.requestIrq s)).stallAddr = s.stallAddr
  rw [foldl_keeps State.stallAddr _ (by simp), foldl_keeps State.stallAddr _ (by simp)]

@[simp] theorem cycleEvents_wrinh (c : CycleInput) : (s.cycleEvents c).wrinh = s.wrinh := by
  unfold State.cycleEvents
  show ((List.finRange 5).foldl (fun t x => t.detectEdge c.pins x) (c.reqs.foldl State.requestIrq s)).wrinh = s.wrinh
  rw [foldl_keeps State.wrinh _ (by simp), foldl_keeps State.wrinh _ (by simp)]

@[simp] theorem cycleEvents_mem (c : CycleInput) : (s.cycleEvents c).mem = s.mem := by
  unfold State.cycleEvents
  show ((List.finRange 5).foldl (fun t x => t.detectEdge c.pins x) (c.reqs.foldl State.requestIrq s)).mem = s.mem
  rw [foldl_keeps State.mem _ (by simp), foldl_keeps State.mem _ (by simp)]

@[simp] theorem cycleEvents_prog (c : CycleInput) : (s.cycleEvents c).prog = s.prog := by
  unfold State.cycleEvents
  show ((List.finRange 5).foldl (fun t x => t.detectEdge c.pins x) (c.reqs.foldl State.requestIrq s)).prog = s.prog
  rw [foldl_keeps State.prog _ (by simp), foldl_keeps State.prog _ (by simp)]

@[simp] theorem cycleEvents_slot (c : CycleInput) : (s.cycleEvents c).slot = s.slot := by
  unfold State.cycleEvents
  show ((List.finRange 5).foldl (fun t x => t.detectEdge c.pins x) (c.reqs.foldl State.requestIrq s)).slot = s.slot
  rw [foldl_keeps State.slot _ (by simp), foldl_keeps State.slot _ (by simp)]

@[simp] theorem cycleEvents_inputs (c : CycleInput) : (s.cycleEvents c).inputs = s.inputs := by
  unfold State.cycleEvents
  show ((List.finRange 5).foldl (fun t x => t.detectEdge c.pins x) (c.reqs.foldl State.requestIrq s)).inputs = s.inputs
  rw [foldl_keeps State.inputs _ (by simp), foldl_keeps State.inputs _ (by simp)]

@[simp] theorem cycleEvents_freeCount (c : CycleInput) : (s.cycleEvents c).freeCount = s.freeCount := by
  unfold State.cycleEvents
  show ((List.finRange 5).foldl (fun t x => t.detectEdge c.pins x) (c.reqs.foldl State.requestIrq s)).freeCount = s.freeCount
  rw [foldl_keeps State.freeCount _ (by simp), foldl_keeps State.freeCount _ (by simp)]

@[simp] theorem cycleEvents_epoch (c : CycleInput) : (s.cycleEvents c).epoch = s.epoch := by
  unfold State.cycleEvents
  show ((List.finRange 5).foldl (fun t x => t.detectEdge c.pins x) (c.reqs.foldl State.requestIrq s)).epoch = s.epoch
  rw [foldl_keeps State.epoch _ (by simp), foldl_keeps State.epoch _ (by simp)]

/-! ### setTrapFlag -/

@[simp] theorem setTrapFlag_cfg (t : Trap) : (s.setTrapFlag t).cfg = s.cfg := rfl
@[simp] theorem setTrapFlag_pc (t : Trap) : (s.setTrapFlag t).pc = s.pc := rfl
@[simp] theorem setTrapFlag_pcBeyond (t : Trap) : (s.setTrapFlag t).pcBeyond = s.pcBeyond := rfl
@[simp] theorem setTrapFlag_w (t : Trap) : (s.setTrapFlag t).w = s.w := rfl
@[simp] theorem setTrapFlag_splim (t : Trap) : (s.setTrapFlag t).splim = s.splim := rfl
@[simp] theorem setTrapFlag_splimEn (t : Trap) : (s.setTrapFlag t).splimEn = s.splimEn := rfl
@[simp] theorem setTrapFlag_sr (t : Trap) : (s.setTrapFlag t).sr = s.sr := rfl
@[simp] theorem setTrapFlag_corcon (t : Trap) : (s.setTrapFlag t).corcon = s.corcon := rfl
@[simp] theorem setTrapFlag_intcon2 (t : Trap) : (s.setTrapFlag t).intcon2 = s.intcon2 := rfl
@[simp] theorem setTrapFlag_ifs (t : Trap) : (s.setTrapFlag t).ifs = s.ifs := rfl
@[simp] theorem setTrapFlag_iec (t : Trap) : (s.setTrapFlag t).iec = s.iec := rfl
@[simp] theorem setTrapFlag_ipc (t : Trap) : (s.setTrapFlag t).ipc = s.ipc := rfl
@[simp] theorem setTrapFlag_disicnt (t : Trap) : (s.setTrapFlag t).disicnt = s.disicnt := rfl
@[simp] theorem setTrapFlag_trapr (t : Trap) : (s.setTrapFlag t).trapr = s.trapr := rfl
@[simp] theorem setTrapFlag_cf (t : Trap) : (s.setTrapFlag t).cf = s.cf := rfl
@[simp] theorem setTrapFlag_pcbuf (t : Trap) : (s.setTrapFlag t).pcbuf = s.pcbuf := rfl
@[simp] theorem setTrapFlag_srlbuf (t : Trap) : (s.setTrapFlag t).srlbuf = s.srlbuf := rfl
@[simp] theorem setTrapFlag_mode (t : Trap) : (s.setTrapFlag t).mode = s.mode := rfl
@[simp] theorem setTrapFlag_skidStack (t : Trap) : (s.setTrapFlag t).skidStack = s.skidStack := rfl
@[simp] theorem setTrapFlag_skidMath (t : Trap) : (s.setTrapFlag t).skidMath = s.skidMath := rfl
@[simp] theorem setTrapFlag_stallOsc (t : Trap) : (s.setTrapFlag t).stallOsc = s.stallOsc := rfl
@[simp] theorem setTrapFlag_stallAddr (t : Trap) : (s.setTrapFlag t).stallAddr = s.stallAddr := rfl
@[simp] theorem setTrapFlag_wrinh (t : Trap) : (s.setTrapFlag t).wrinh = s.wrinh := rfl
@[simp] theorem setTrapFlag_pinprev (t : Trap) : (s.setTrapFlag t).pinprev = s.pinprev := rfl
@[simp] theorem setTrapFlag_mem (t : Trap) : (s.setTrapFlag t).mem = s.mem := rfl
@[simp] theorem setTrapFlag_prog (t : Trap) : (s.setTrapFlag t).prog = s.prog := rfl
@[simp] theorem setTrapFlag_slot (t : Trap) : (s.setTrapFlag t).slot = s.slot := rfl
@[simp] theorem setTrapFlag_inputs (t : Trap) : (s.setTrapFlag t).inputs = s.inputs := rfl
@[simp] theorem setTrapFlag_freeCount (t : Trap) : (s.setTrapFlag t).freeCount = s.freeCount := rfl
@[simp] theorem setTrapFlag_epoch (t : Trap) : (s.setTrapFlag t).epoch = s.epoch := rfl

/-! ### setCf -/

@[simp] theorem setCf_cfg : s.setCf.cfg = s.cfg := rfl
@[simp] theorem setCf_pc : s.setCf.pc = s.pc := rfl
@[simp] theorem setCf_pcBeyond : s.setCf.pcBeyond = s.pcBeyond := rfl
@[simp] theorem setCf_w : s.setCf.w = s.w := rfl
@[simp] theorem setCf_splim : s.setCf.splim = s.splim := rfl
@[simp] theorem setCf_splimEn : s.setCf.splimEn = s.splimEn := rfl
@[simp] theorem setCf_sr : s.setCf.sr = s.sr := rfl
@[simp] theorem setCf_corcon : s.setCf.corcon = s.corcon := rfl
@[simp] theorem setCf_intcon1 : s.setCf.intcon1 = s.intcon1 := rfl
@[simp] theorem setCf_intcon2 : s.setCf.intcon2 = s.intcon2 := rfl
@[simp] theorem setCf_ifs : s.setCf.ifs = s.ifs := rfl
@[simp] theorem setCf_iec : s.setCf.iec = s.iec := rfl
@[simp] theorem setCf_ipc : s.setCf.ipc = s.ipc := rfl
@[simp] theorem setCf_disicnt : s.setCf.disicnt = s.disicnt := rfl
@[simp] theorem setCf_trapr : s.setCf.trapr = s.trapr := rfl
@[simp] theorem setCf_pcbuf : s.setCf.pcbuf = s.pcbuf := rfl
@[simp] theorem setCf_srlbuf : s.setCf.srlbuf = s.srlbuf := rfl
@[simp] theorem setCf_mode : s.setCf.mode = s.mode := rfl
@[simp] theorem setCf_skidStack : s.setCf.skidStack = s.skidStack := rfl
@[simp] theorem setCf_skidMath : s.setCf.skidMath = s.skidMath := rfl
@[simp] theorem setCf_stallOsc : s.setCf.stallOsc = s.stallOsc := rfl
@[simp] theorem setCf_stallAddr : s.setCf.stallAddr = s.stallAddr := rfl
@[simp] theorem setCf_wrinh : s.setCf.wrinh = s.wrinh := rfl
@[simp] theorem setCf_pinprev : s.setCf.pinprev = s.pinprev := rfl
@[simp] theorem setCf_mem : s.setCf.mem = s.mem := rfl
@[simp] theorem setCf_prog : s.setCf.prog = s.prog := rfl
@[simp] theorem setCf_slot : s.setCf.slot = s.slot := rfl
@[simp] theorem setCf_inputs : s.setCf.inputs = s.inputs := rfl
@[simp] theorem setCf_freeCount : s.setCf.freeCount = s.freeCount := rfl
@[simp] theorem setCf_epoch : s.setCf.epoch = s.epoch := rfl

/-! ### armTrap -/

@[simp] theorem armTrap_cfg (t : Trap) : (s.armTrap t).cfg = s.cfg := by cases t <;> rfl
@[simp] theorem armTrap_pc (t : Trap) : (s.armTrap t).pc = s.pc := by cases t <;> rfl
@[simp] theorem armTrap_pcBeyond (t : Trap) : (s.armTrap t).pcBeyond = s.pcBeyond := by cases t <;> rfl
@[simp] theorem armTrap_w (t : Trap) : (s.armTrap t).w = s.w := by cases t <;> rfl
@[simp] theorem armTrap_splim (t : Trap) : (s.armTrap t).splim = s.splim := by cases t <;> rfl
@[simp] theorem armTrap_splimEn (t : Trap) : (s.armTrap t).splimEn = s.splimEn := by cases t <;> rfl
@[simp] theorem armTrap_sr (t : Trap) : (s.armTrap t).sr = s.sr := by cases t <;> rfl
@[simp] theorem armTrap_corcon (t : Trap) : (s.armTrap t).corcon = s.corcon := by cases t <;> rfl
@[simp] theorem armTrap_intcon1 (t : Trap) : (s.armTrap t).intcon1 = s.intcon1 := by cases t <;> rfl
@[simp] theorem armTrap_intcon2 (t : Trap) : (s.armTrap t).intcon2 = s.intcon2 := by cases t <;> rfl
@[simp] theorem armTrap_ifs (t : Trap) : (s.armTrap t).ifs = s.ifs := by cases t <;> rfl
@[simp] theorem armTrap_iec (t : Trap) : (s.armTrap t).iec = s.iec := by cases t <;> rfl
@[simp] theorem armTrap_ipc (t : Trap) : (s.armTrap t).ipc = s.ipc := by cases t <;> rfl
@[simp] theorem armTrap_disicnt (t : Trap) : (s.armTrap t).disicnt = s.disicnt := by cases t <;> rfl
@[simp] theorem armTrap_trapr (t : Trap) : (s.armTrap t).trapr = s.trapr := by cases t <;> rfl
@[simp] theorem armTrap_cf (t : Trap) : (s.armTrap t).cf = s.cf := by cases t <;> rfl
@[simp] theorem armTrap_pcbuf (t : Trap) : (s.armTrap t).pcbuf = s.pcbuf := by cases t <;> rfl
@[simp] theorem armTrap_srlbuf (t : Trap) : (s.armTrap t).srlbuf = s.srlbuf := by cases t <;> rfl
@[simp] theorem armTrap_mode (t : Trap) : (s.armTrap t).mode = s.mode := by cases t <;> rfl
@[simp] theorem armTrap_wrinh (t : Trap) : (s.armTrap t).wrinh = s.wrinh := by cases t <;> rfl
@[simp] theorem armTrap_pinprev (t : Trap) : (s.armTrap t).pinprev = s.pinprev := by cases t <;> rfl
@[simp] theorem armTrap_mem (t : Trap) : (s.armTrap t).mem = s.mem := by cases t <;> rfl
@[simp] theorem armTrap_prog (t : Trap) : (s.armTrap t).prog = s.prog := by cases t <;> rfl
@[simp] theorem armTrap_slot (t : Trap) : (s.armTrap t).slot = s.slot := by cases t <;> rfl
@[simp] theorem armTrap_inputs (t : Trap) : (s.armTrap t).inputs = s.inputs := by cases t <;> rfl
@[simp] theorem armTrap_epoch (t : Trap) : (s.armTrap t).epoch = s.epoch := by cases t <;> rfl

/-! ### requestTrap -/

@[simp] theorem requestTrap_cfg (t : Trap) : (s.requestTrap t).cfg = s.cfg := by
  unfold State.requestTrap; split <;> simp
@[simp] theorem requestTrap_pc (t : Trap) : (s.requestTrap t).pc = s.pc := by
  unfold State.requestTrap; split <;> simp
@[simp] theorem requestTrap_pcBeyond (t : Trap) : (s.requestTrap t).pcBeyond = s.pcBeyond := by
  unfold State.requestTrap; split <;> simp
@[simp] theorem requestTrap_w (t : Trap) : (s.requestTrap t).w = s.w := by
  unfold State.requestTrap; split <;> simp
@[simp] theorem requestTrap_splim (t : Trap) : (s.requestTrap t).splim = s.splim := by
  unfold State.requestTrap; split <;> simp
@[simp] theorem requestTrap_splimEn (t : Trap) : (s.requestTrap t).splimEn = s.splimEn := by
  unfold State.requestTrap; split <;> simp
@[simp] theorem requestTrap_sr (t : Trap) : (s.requestTrap t).sr = s.sr := by
  unfold State.requestTrap; split <;> simp
@[simp] theorem requestTrap_corcon (t : Trap) : (s.requestTrap t).corcon = s.corcon := by
  unfold State.requestTrap; split <;> simp
@[simp] theorem requestTrap_intcon2 (t : Trap) : (s.requestTrap t).intcon2 = s.intcon2 := by
  unfold State.requestTrap; split <;> simp
@[simp] theorem requestTrap_ifs (t : Trap) : (s.requestTrap t).ifs = s.ifs := by
  unfold State.requestTrap; split <;> simp
@[simp] theorem requestTrap_iec (t : Trap) : (s.requestTrap t).iec = s.iec := by
  unfold State.requestTrap; split <;> simp
@[simp] theorem requestTrap_ipc (t : Trap) : (s.requestTrap t).ipc = s.ipc := by
  unfold State.requestTrap; split <;> simp
@[simp] theorem requestTrap_disicnt (t : Trap) : (s.requestTrap t).disicnt = s.disicnt := by
  unfold State.requestTrap; split <;> simp
@[simp] theorem requestTrap_trapr (t : Trap) : (s.requestTrap t).trapr = s.trapr := by
  unfold State.requestTrap; split <;> simp
@[simp] theorem requestTrap_cf (t : Trap) : (s.requestTrap t).cf = s.cf := by
  unfold State.requestTrap; split <;> simp
@[simp] theorem requestTrap_pcbuf (t : Trap) : (s.requestTrap t).pcbuf = s.pcbuf := by
  unfold State.requestTrap; split <;> simp
@[simp] theorem requestTrap_srlbuf (t : Trap) : (s.requestTrap t).srlbuf = s.srlbuf := by
  unfold State.requestTrap; split <;> simp
@[simp] theorem requestTrap_mode (t : Trap) : (s.requestTrap t).mode = s.mode := by
  unfold State.requestTrap; split <;> simp
@[simp] theorem requestTrap_wrinh (t : Trap) : (s.requestTrap t).wrinh = s.wrinh := by
  unfold State.requestTrap; split <;> simp
@[simp] theorem requestTrap_pinprev (t : Trap) : (s.requestTrap t).pinprev = s.pinprev := by
  unfold State.requestTrap; split <;> simp
@[simp] theorem requestTrap_mem (t : Trap) : (s.requestTrap t).mem = s.mem := by
  unfold State.requestTrap; split <;> simp
@[simp] theorem requestTrap_prog (t : Trap) : (s.requestTrap t).prog = s.prog := by
  unfold State.requestTrap; split <;> simp
@[simp] theorem requestTrap_slot (t : Trap) : (s.requestTrap t).slot = s.slot := by
  unfold State.requestTrap; split <;> simp
@[simp] theorem requestTrap_inputs (t : Trap) : (s.requestTrap t).inputs = s.inputs := by
  unfold State.requestTrap; split <;> simp
@[simp] theorem requestTrap_epoch (t : Trap) : (s.requestTrap t).epoch = s.epoch := by
  unfold State.requestTrap; split <;> simp

/-! ### postTrap -/

@[simp] theorem postTrap_cfg (t : Trap) : (s.postTrap t).cfg = s.cfg := by
  unfold State.postTrap; split <;> [split; skip] <;> simp
@[simp] theorem postTrap_pc (t : Trap) : (s.postTrap t).pc = s.pc := by
  unfold State.postTrap; split <;> [split; skip] <;> simp
@[simp] theorem postTrap_pcBeyond (t : Trap) : (s.postTrap t).pcBeyond = s.pcBeyond := by
  unfold State.postTrap; split <;> [split; skip] <;> simp
@[simp] theorem postTrap_w (t : Trap) : (s.postTrap t).w = s.w := by
  unfold State.postTrap; split <;> [split; skip] <;> simp
@[simp] theorem postTrap_splim (t : Trap) : (s.postTrap t).splim = s.splim := by
  unfold State.postTrap; split <;> [split; skip] <;> simp
@[simp] theorem postTrap_splimEn (t : Trap) : (s.postTrap t).splimEn = s.splimEn := by
  unfold State.postTrap; split <;> [split; skip] <;> simp
@[simp] theorem postTrap_sr (t : Trap) : (s.postTrap t).sr = s.sr := by
  unfold State.postTrap; split <;> [split; skip] <;> simp
@[simp] theorem postTrap_corcon (t : Trap) : (s.postTrap t).corcon = s.corcon := by
  unfold State.postTrap; split <;> [split; skip] <;> simp
@[simp] theorem postTrap_intcon2 (t : Trap) : (s.postTrap t).intcon2 = s.intcon2 := by
  unfold State.postTrap; split <;> [split; skip] <;> simp
@[simp] theorem postTrap_ifs (t : Trap) : (s.postTrap t).ifs = s.ifs := by
  unfold State.postTrap; split <;> [split; skip] <;> simp
@[simp] theorem postTrap_iec (t : Trap) : (s.postTrap t).iec = s.iec := by
  unfold State.postTrap; split <;> [split; skip] <;> simp
@[simp] theorem postTrap_ipc (t : Trap) : (s.postTrap t).ipc = s.ipc := by
  unfold State.postTrap; split <;> [split; skip] <;> simp
@[simp] theorem postTrap_disicnt (t : Trap) : (s.postTrap t).disicnt = s.disicnt := by
  unfold State.postTrap; split <;> [split; skip] <;> simp
@[simp] theorem postTrap_trapr (t : Trap) : (s.postTrap t).trapr = s.trapr := by
  unfold State.postTrap; split <;> [split; skip] <;> simp
@[simp] theorem postTrap_pcbuf (t : Trap) : (s.postTrap t).pcbuf = s.pcbuf := by
  unfold State.postTrap; split <;> [split; skip] <;> simp
@[simp] theorem postTrap_srlbuf (t : Trap) : (s.postTrap t).srlbuf = s.srlbuf := by
  unfold State.postTrap; split <;> [split; skip] <;> simp
@[simp] theorem postTrap_mode (t : Trap) : (s.postTrap t).mode = s.mode := by
  unfold State.postTrap; split <;> [split; skip] <;> simp
@[simp] theorem postTrap_wrinh (t : Trap) : (s.postTrap t).wrinh = s.wrinh := by
  unfold State.postTrap; split <;> [split; skip] <;> simp
@[simp] theorem postTrap_pinprev (t : Trap) : (s.postTrap t).pinprev = s.pinprev := by
  unfold State.postTrap; split <;> [split; skip] <;> simp
@[simp] theorem postTrap_mem (t : Trap) : (s.postTrap t).mem = s.mem := by
  unfold State.postTrap; split <;> [split; skip] <;> simp
@[simp] theorem postTrap_prog (t : Trap) : (s.postTrap t).prog = s.prog := by
  unfold State.postTrap; split <;> [split; skip] <;> simp
@[simp] theorem postTrap_slot (t : Trap) : (s.postTrap t).slot = s.slot := by
  unfold State.postTrap; split <;> [split; skip] <;> simp
@[simp] theorem postTrap_inputs (t : Trap) : (s.postTrap t).inputs = s.inputs := by
  unfold State.postTrap; split <;> [split; skip] <;> simp
@[simp] theorem postTrap_epoch (t : Trap) : (s.postTrap t).epoch = s.epoch := by
  unfold State.postTrap; split <;> [split; skip] <;> simp

/-! ### postTraps -/

@[simp] theorem postTraps_cfg : s.postTraps.cfg = s.cfg := by
  simp [State.postTraps]
@[simp] theorem postTraps_pc : s.postTraps.pc = s.pc := by
  simp [State.postTraps]
@[simp] theorem postTraps_pcBeyond : s.postTraps.pcBeyond = s.pcBeyond := by
  simp [State.postTraps]
@[simp] theorem postTraps_w : s.postTraps.w = s.w := by
  simp [State.postTraps]
@[simp] theorem postTraps_splim : s.postTraps.splim = s.splim := by
  simp [State.postTraps]
@[simp] theorem postTraps_splimEn : s.postTraps.splimEn = s.splimEn := by
  simp [State.postTraps]
@[simp] theorem postTraps_sr : s.postTraps.sr = s.sr := by
  simp [State.postTraps]
@[simp] theorem postTraps_corcon : s.postTraps.corcon = s.corcon := by
  simp [State.postTraps]
@[simp] theorem postTraps_intcon2 : s.postTraps.intcon2 = s.intcon2 := by
  simp [State.postTraps]
@[simp] theorem postTraps_ifs : s.postTraps.ifs = s.ifs := by
  simp [State.postTraps]
@[simp] theorem postTraps_iec : s.postTraps.iec = s.iec := by
  simp [State.postTraps]
@[simp] theorem postTraps_ipc : s.postTraps.ipc = s.ipc := by
  simp [State.postTraps]
@[simp] theorem postTraps_disicnt : s.postTraps.disicnt = s.disicnt := by
  simp [State.postTraps]
@[simp] theorem postTraps_trapr : s.postTraps.trapr = s.trapr := by
  simp [State.postTraps]
@[simp] theorem postTraps_pcbuf : s.postTraps.pcbuf = s.pcbuf := by
  simp [State.postTraps]
@[simp] theorem postTraps_srlbuf : s.postTraps.srlbuf = s.srlbuf := by
  simp [State.postTraps]
@[simp] theorem postTraps_mode : s.postTraps.mode = s.mode := by
  simp [State.postTraps]
@[simp] theorem postTraps_wrinh : s.postTraps.wrinh = s.wrinh := by
  simp [State.postTraps]
@[simp] theorem postTraps_pinprev : s.postTraps.pinprev = s.pinprev := by
  simp [State.postTraps]
@[simp] theorem postTraps_mem : s.postTraps.mem = s.mem := by
  simp [State.postTraps]
@[simp] theorem postTraps_prog : s.postTraps.prog = s.prog := by
  simp [State.postTraps]
@[simp] theorem postTraps_slot : s.postTraps.slot = s.slot := by
  simp [State.postTraps]
@[simp] theorem postTraps_inputs : s.postTraps.inputs = s.inputs := by
  simp [State.postTraps]
@[simp] theorem postTraps_epoch : s.postTraps.epoch = s.epoch := by
  simp [State.postTraps]

@[simp] theorem events_cfg (n : Nat) : (s.events n).cfg = s.cfg := by
  unfold State.events
  rw [foldl_keeps State.cfg _ (by simp)]
  dsimp only
  split <;> simp

@[simp] theorem events_pc (n : Nat) : (s.events n).pc = s.pc := by
  unfold State.events
  rw [foldl_keeps State.pc _ (by simp)]
  dsimp only
  split <;> simp
@[simp] theorem events_pcBeyond (n : Nat) : (s.events n).pcBeyond = s.pcBeyond := by
  unfold State.events
  rw [foldl_keeps State.pcBeyond _ (by simp)]
  dsimp only
  split <;> simp

@[simp] theorem events_w (n : Nat) : (s.events n).w = s.w := by
  unfold State.events
  rw [foldl_keeps State.w _ (by simp)]
  dsimp only
  split <;> simp

@[simp] theorem events_splim (n : Nat) : (s.events n).splim = s.splim := by
  unfold State.events
  rw [foldl_keeps State.splim _ (by simp)]
  dsimp only
  split <;> simp

@[simp] theorem events_splimEn (n : Nat) : (s.events n).splimEn = s.splimEn := by
  unfold State.events
  rw [foldl_keeps State.splimEn _ (by simp)]
  dsimp only
  split <;> simp

@[simp] theorem events_sr (n : Nat) : (s.events n).sr = s.sr := by
  unfold State.events
  rw [foldl_keeps State.sr _ (by simp)]
  dsimp only
  split <;> simp

@[simp] theorem events_corcon (n : Nat) : (s.events n).corcon = s.corcon := by
  unfold State.events
  rw [foldl_keeps State.corcon _ (by simp)]
  dsimp only
  split <;> simp

@[simp] theorem events_intcon2 (n : Nat) : (s.events n).intcon2 = s.intcon2 := by
  unfold State.events
  rw [foldl_keeps State.intcon2 _ (by simp)]
  dsimp only
  split <;> simp

@[simp] theorem events_iec (n : Nat) : (s.events n).iec = s.iec := by
  unfold State.events
  rw [foldl_keeps State.iec _ (by simp)]
  dsimp only
  split <;> simp

@[simp] theorem events_ipc (n : Nat) : (s.events n).ipc = s.ipc := by
  unfold State.events
  rw [foldl_keeps State.ipc _ (by simp)]
  dsimp only
  split <;> simp

@[simp] theorem events_disicnt (n : Nat) : (s.events n).disicnt = s.disicnt := by
  unfold State.events
  rw [foldl_keeps State.disicnt _ (by simp)]
  dsimp only
  split <;> simp

@[simp] theorem events_trapr (n : Nat) : (s.events n).trapr = s.trapr := by
  unfold State.events
  rw [foldl_keeps State.trapr _ (by simp)]
  dsimp only
  split <;> simp

@[simp] theorem events_pcbuf (n : Nat) : (s.events n).pcbuf = s.pcbuf := by
  unfold State.events
  rw [foldl_keeps State.pcbuf _ (by simp)]
  dsimp only
  split <;> simp

@[simp] theorem events_srlbuf (n : Nat) : (s.events n).srlbuf = s.srlbuf := by
  unfold State.events
  rw [foldl_keeps State.srlbuf _ (by simp)]
  dsimp only
  split <;> simp

@[simp] theorem events_mode (n : Nat) : (s.events n).mode = s.mode := by
  unfold State.events
  rw [foldl_keeps State.mode _ (by simp)]
  dsimp only
  split <;> simp

@[simp] theorem events_wrinh (n : Nat) : (s.events n).wrinh = s.wrinh := by
  unfold State.events
  rw [foldl_keeps State.wrinh _ (by simp)]
  dsimp only
  split <;> simp

@[simp] theorem events_mem (n : Nat) : (s.events n).mem = s.mem := by
  unfold State.events
  rw [foldl_keeps State.mem _ (by simp)]
  dsimp only
  split <;> simp

@[simp] theorem events_prog (n : Nat) : (s.events n).prog = s.prog := by
  unfold State.events
  rw [foldl_keeps State.prog _ (by simp)]
  dsimp only
  split <;> simp

@[simp] theorem events_epoch (n : Nat) : (s.events n).epoch = s.epoch := by
  unfold State.events
  rw [foldl_keeps State.epoch _ (by simp)]
  dsimp only
  split <;> simp

/-! ### count -/

@[simp] theorem count_cfg (n : Nat) : (s.count n).cfg = s.cfg := by
  unfold State.count; split <;> rfl
@[simp] theorem count_pc (n : Nat) : (s.count n).pc = s.pc := by
  unfold State.count; split <;> rfl
@[simp] theorem count_pcBeyond (n : Nat) : (s.count n).pcBeyond = s.pcBeyond := by
  unfold State.count; split <;> rfl
@[simp] theorem count_w (n : Nat) : (s.count n).w = s.w := by
  unfold State.count; split <;> rfl
@[simp] theorem count_splim (n : Nat) : (s.count n).splim = s.splim := by
  unfold State.count; split <;> rfl
@[simp] theorem count_splimEn (n : Nat) : (s.count n).splimEn = s.splimEn := by
  unfold State.count; split <;> rfl
@[simp] theorem count_sr (n : Nat) : (s.count n).sr = s.sr := by
  unfold State.count; split <;> rfl
@[simp] theorem count_corcon (n : Nat) : (s.count n).corcon = s.corcon := by
  unfold State.count; split <;> rfl
@[simp] theorem count_intcon1 (n : Nat) : (s.count n).intcon1 = s.intcon1 := by
  unfold State.count; split <;> rfl
@[simp] theorem count_ifs (n : Nat) : (s.count n).ifs = s.ifs := by
  unfold State.count; split <;> rfl
@[simp] theorem count_iec (n : Nat) : (s.count n).iec = s.iec := by
  unfold State.count; split <;> rfl
@[simp] theorem count_ipc (n : Nat) : (s.count n).ipc = s.ipc := by
  unfold State.count; split <;> rfl
@[simp] theorem count_trapr (n : Nat) : (s.count n).trapr = s.trapr := by
  unfold State.count; split <;> rfl
@[simp] theorem count_cf (n : Nat) : (s.count n).cf = s.cf := by
  unfold State.count; split <;> rfl
@[simp] theorem count_pcbuf (n : Nat) : (s.count n).pcbuf = s.pcbuf := by
  unfold State.count; split <;> rfl
@[simp] theorem count_srlbuf (n : Nat) : (s.count n).srlbuf = s.srlbuf := by
  unfold State.count; split <;> rfl
@[simp] theorem count_mode (n : Nat) : (s.count n).mode = s.mode := by
  unfold State.count; split <;> rfl
@[simp] theorem count_skidStack (n : Nat) : (s.count n).skidStack = s.skidStack := by
  unfold State.count; split <;> rfl
@[simp] theorem count_skidMath (n : Nat) : (s.count n).skidMath = s.skidMath := by
  unfold State.count; split <;> rfl
@[simp] theorem count_stallOsc (n : Nat) : (s.count n).stallOsc = s.stallOsc := by
  unfold State.count; split <;> rfl
@[simp] theorem count_stallAddr (n : Nat) : (s.count n).stallAddr = s.stallAddr := by
  unfold State.count; split <;> rfl
@[simp] theorem count_wrinh (n : Nat) : (s.count n).wrinh = s.wrinh := by
  unfold State.count; split <;> rfl
@[simp] theorem count_pinprev (n : Nat) : (s.count n).pinprev = s.pinprev := by
  unfold State.count; split <;> rfl
@[simp] theorem count_mem (n : Nat) : (s.count n).mem = s.mem := by
  unfold State.count; split <;> rfl
@[simp] theorem count_prog (n : Nat) : (s.count n).prog = s.prog := by
  unfold State.count; split <;> rfl
@[simp] theorem count_inputs (n : Nat) : (s.count n).inputs = s.inputs := by
  unfold State.count; split <;> rfl
@[simp] theorem count_freeCount (n : Nat) : (s.count n).freeCount = s.freeCount := by
  unfold State.count; split <;> rfl
@[simp] theorem count_epoch (n : Nat) : (s.count n).epoch = s.epoch := by
  unfold State.count; split <;> rfl

/-! ### wake -/

@[simp] theorem wake_cfg : s.wake.cfg = s.cfg := by
  unfold State.wake; split <;> rfl
@[simp] theorem wake_pc : s.wake.pc = s.pc := by
  unfold State.wake; split <;> rfl
@[simp] theorem wake_pcBeyond : s.wake.pcBeyond = s.pcBeyond := by
  unfold State.wake; split <;> rfl
@[simp] theorem wake_w : s.wake.w = s.w := by
  unfold State.wake; split <;> rfl
@[simp] theorem wake_splim : s.wake.splim = s.splim := by
  unfold State.wake; split <;> rfl
@[simp] theorem wake_splimEn : s.wake.splimEn = s.splimEn := by
  unfold State.wake; split <;> rfl
@[simp] theorem wake_sr : s.wake.sr = s.sr := by
  unfold State.wake; split <;> rfl
@[simp] theorem wake_corcon : s.wake.corcon = s.corcon := by
  unfold State.wake; split <;> rfl
@[simp] theorem wake_intcon1 : s.wake.intcon1 = s.intcon1 := by
  unfold State.wake; split <;> rfl
@[simp] theorem wake_intcon2 : s.wake.intcon2 = s.intcon2 := by
  unfold State.wake; split <;> rfl
@[simp] theorem wake_ifs : s.wake.ifs = s.ifs := by
  unfold State.wake; split <;> rfl
@[simp] theorem wake_iec : s.wake.iec = s.iec := by
  unfold State.wake; split <;> rfl
@[simp] theorem wake_ipc : s.wake.ipc = s.ipc := by
  unfold State.wake; split <;> rfl
@[simp] theorem wake_disicnt : s.wake.disicnt = s.disicnt := by
  unfold State.wake; split <;> rfl
@[simp] theorem wake_trapr : s.wake.trapr = s.trapr := by
  unfold State.wake; split <;> rfl
@[simp] theorem wake_cf : s.wake.cf = s.cf := by
  unfold State.wake; split <;> rfl
@[simp] theorem wake_pcbuf : s.wake.pcbuf = s.pcbuf := by
  unfold State.wake; split <;> rfl
@[simp] theorem wake_srlbuf : s.wake.srlbuf = s.srlbuf := by
  unfold State.wake; split <;> rfl
@[simp] theorem wake_skidStack : s.wake.skidStack = s.skidStack := by
  unfold State.wake; split <;> rfl
@[simp] theorem wake_skidMath : s.wake.skidMath = s.skidMath := by
  unfold State.wake; split <;> rfl
@[simp] theorem wake_stallOsc : s.wake.stallOsc = s.stallOsc := by
  unfold State.wake; split <;> rfl
@[simp] theorem wake_stallAddr : s.wake.stallAddr = s.stallAddr := by
  unfold State.wake; split <;> rfl
@[simp] theorem wake_wrinh : s.wake.wrinh = s.wrinh := by
  unfold State.wake; split <;> rfl
@[simp] theorem wake_pinprev : s.wake.pinprev = s.pinprev := by
  unfold State.wake; split <;> rfl
@[simp] theorem wake_mem : s.wake.mem = s.mem := by
  unfold State.wake; split <;> rfl
@[simp] theorem wake_prog : s.wake.prog = s.prog := by
  unfold State.wake; split <;> rfl
@[simp] theorem wake_slot : s.wake.slot = s.slot := by
  unfold State.wake; split <;> rfl
@[simp] theorem wake_inputs : s.wake.inputs = s.inputs := by
  unfold State.wake; split <;> rfl
@[simp] theorem wake_freeCount : s.wake.freeCount = s.freeCount := by
  unfold State.wake; split <;> rfl
@[simp] theorem wake_epoch : s.wake.epoch = s.epoch := by
  unfold State.wake; split <;> rfl

end Sys2Proof.Machine
end

