-- ==== Sys2Proof/Laws/Memory.lean ====
section
/-!
SUPPORT. The laws of memory: a read after a write, and the canonical form, which every memory operation keeps.
-/

namespace Sys2Proof.Machine

section cells

variable {α : Type}

theorem cellRead_none_of_above {l : List (Nat × α)} {lo a : Nat} (h : cellsAbove lo l = true) (ha : a ≤ lo) :
    cellRead l a = none := by
  induction l with
  | nil => rfl
  | cons c l ih =>
    obtain ⟨k, x⟩ := c
    simp only [cellsAbove, Bool.and_eq_true, decide_eq_true_eq] at h
    simp only [cellRead]
    rw [if_neg (by omega), ih h.2]

/-- Reading where something was just written gives what was written. -/
@[simp] theorem cellRead_cellWrite_same (l : List (Nat × α)) (a : Nat) (x : α) :
    cellRead (cellWrite l a x) a = some x := by
  induction l with
  | nil => simp [cellWrite, cellRead]
  | cons c l ih =>
    obtain ⟨k, y⟩ := c
    simp only [cellWrite]
    split
    · simp [cellRead]
    · split
      · simp [cellRead]
      · next h1 h2 => simp only [cellRead, ih]; rw [if_neg (fun h => h2 h.symm)]

/-- A write leaves every other address alone. -/
theorem cellRead_cellWrite_other (l : List (Nat × α)) {a b : Nat} (x : α) (h : a ≠ b) :
    cellRead (cellWrite l a x) b = cellRead l b := by
  induction l with
  | nil => simp [cellWrite, cellRead, h]
  | cons c l ih =>
    obtain ⟨k, y⟩ := c
    simp only [cellWrite]
    split
    · simp [cellRead, h]
    · split
      · next h1 h2 =>
        subst h2
        simp only [cellRead]
        rw [if_neg h, if_neg h]
      · simp only [cellRead, ih]

theorem cellsAbove_cellWrite {l : List (Nat × α)} {lo a : Nat} {x : α} (h : cellsAbove lo l = true) (ha : lo < a) :
    cellsAbove lo (cellWrite l a x) = true := by
  induction l with
  | nil => simp [cellWrite, cellsAbove, ha]
  | cons c l ih =>
    obtain ⟨k, y⟩ := c
    simp only [cellsAbove, Bool.and_eq_true, decide_eq_true_eq] at h
    simp only [cellWrite]
    split
    · simp [cellsAbove, ha, h.1, h.2]
    · split
      · simp [cellsAbove, ha, h.2]
      · simp [cellsAbove, h.1, ih h.2]

theorem cellsAbove_trans {l : List (Nat × α)} {lo hi : Nat} (h : cellsAbove hi l = true) (hl : lo ≤ hi) :
    cellsAbove lo l = true := by
  induction l with
  | nil => rfl
  | cons c l ih =>
    obtain ⟨k, y⟩ := c
    simp only [cellsAbove, Bool.and_eq_true, decide_eq_true_eq] at h ⊢
    exact ⟨by omega, ih h.2⟩

/-- A write keeps the addresses strictly rising. -/
theorem cellsRising_cellWrite {l : List (Nat × α)} {a : Nat} {x : α} (h : cellsRising l = true) :
    cellsRising (cellWrite l a x) = true := by
  induction l with
  | nil => simp [cellWrite, cellsRising, cellsAbove]
  | cons c l ih =>
    obtain ⟨k, y⟩ := c
    simp only [cellsRising, Bool.and_eq_true] at h
    simp only [cellWrite]
    split
    · next hk =>
      simp only [cellsRising, cellsAbove, Bool.and_eq_true, decide_eq_true_eq]
      exact ⟨⟨hk, cellsAbove_trans h.1 (by omega)⟩, h.1, h.2⟩
    · split
      · next h1 h2 =>
        subst h2
        simp only [cellsRising, Bool.and_eq_true]
        exact ⟨h.1, h.2⟩
      · next h1 h2 =>
        simp only [cellsRising, Bool.and_eq_true]
        exact ⟨cellsAbove_cellWrite h.1 (by omega), ih h.2⟩

/-- Every entry of a written list is the new one or an old one. -/
theorem mem_cellWrite {l : List (Nat × α)} {a : Nat} {x : α} {c : Nat × α} (h : c ∈ cellWrite l a x) :
    c = (a, x) ∨ c ∈ l := by
  induction l with
  | nil => simpa [cellWrite] using h
  | cons d l ih =>
    obtain ⟨k, y⟩ := d
    simp only [cellWrite] at h
    split at h
    · simpa using h
    · split at h
      · rcases List.mem_cons.1 h with h | h
        · exact .inl h
        · exact .inr (List.mem_cons_of_mem _ h)
      · rcases List.mem_cons.1 h with h | h
        · exact .inr (h ▸ List.mem_cons_self ..)
        · exact (ih h).imp_right (List.mem_cons_of_mem _)

end cells

/-- Writing a byte inside data space keeps the canonical form of data memory. -/
theorem Memory.wf_write {m : Memory} {a : Nat} {b : Byte} (h : Memory.wf m = true) (ha : a < 0x10000) :
    Memory.wf (cellWrite m a b) = true := by
  simp only [Memory.wf, Bool.and_eq_true, List.all_eq_true, decide_eq_true_eq] at h ⊢
  refine ⟨cellsRising_cellWrite h.1, fun c hc => ?_⟩
  rcases mem_cellWrite hc with rfl | hc
  · exact ha
  · exact h.2 c hc

/-- Data memory holds its canonical form through a byte store. -/
theorem putRamByte_wf {s : State} {a : DataAddr} {b : Byte} (h : Memory.wf s.mem = true) :
    Memory.wf (s.putRamByte a b).mem = true :=
  Memory.wf_write h a.isLt

/-- Data memory holds its canonical form through a word store. -/
theorem putRamWord_wf {s : State} {a : DataAddr} {v : Word} (h : Memory.wf s.mem = true) :
    Memory.wf (s.putRamWord a v).mem = true := by
  unfold State.putRamWord
  split <;> exact putRamByte_wf (putRamByte_wf h)

/-- The memory of the machine after reset has its canonical form. -/
theorem reset_mem_wf : Memory.wf State.reset.mem = true := rfl

/-- The program memory of the machine after reset has its canonical form. -/
theorem reset_prog_wf : ProgMemory.wf State.reset.prog = true := rfl

/-- A byte store is read back. -/
@[simp] theorem ramByte_putRamByte_same (s : State) (a : DataAddr) (b : Byte) : (s.putRamByte a b).ramByte a = b := by
  simp [State.ramByte]

/-- A byte store leaves every other byte alone. -/
theorem ramByte_putRamByte_other (s : State) {a c : DataAddr} (b : Byte) (h : a ≠ c) :
    (s.putRamByte a b).ramByte c = s.ramByte c := by
  simp only [State.ramByte, putRamByte_mem, putRamByte_epoch]
  rw [cellRead_cellWrite_other _ _ (fun e => h (BitVec.eq_of_toNat_eq e))]

/-- The two bytes of a word lie at different addresses. -/
theorem addr_ne_succ (a : DataAddr) : a ≠ a + 1 := by
  intro h
  have := congrArg BitVec.toNat h
  rw [BitVec.toNat_add, show (1 : DataAddr).toNat = 1 from rfl] at this
  omega

theorem hiByte_append_loByte (v : Word) : hiByte v ++ loByte v = v := by
  apply BitVec.eq_of_getLsbD_eq
  intro i hi
  rw [hiByte, loByte, BitVec.getLsbD_append]
  split
  · next h => simp [h]
  · next h =>
    rw [BitVec.getLsbD_extractLsb', show 8 + (i - 8) = i by omega]
    simp [show i - 8 < 8 by omega]

/-- A word store is read back, in either byte order. -/
@[simp] theorem ramWord_putRamWord_same (s : State) (a : DataAddr) (v : Word) : (s.putRamWord a v).ramWord a = v := by
  have hne := (addr_ne_succ a).symm
  unfold State.ramWord State.putRamWord
  cases h : s.cfg.byteOrder <;>
    simp only [putRamByte_cfg, h, ramByte_putRamByte_same, ramByte_putRamByte_other _ _ hne, hiByte_append_loByte]

/-- A word store leaves every byte outside its word alone. -/
theorem ramByte_putRamWord_other (s : State) {a c : DataAddr} (v : Word) (h : c ≠ a) (h' : c ≠ a + 1) :
    (s.putRamWord a v).ramByte c = s.ramByte c := by
  unfold State.putRamWord
  split <;> rw [ramByte_putRamByte_other _ _ h'.symm, ramByte_putRamByte_other _ _ h.symm]

/-- What a byte of memory reads as depends on the memory and the epoch alone. -/
theorem ramByte_congr {s t : State} (hm : t.mem = s.mem) (he : t.epoch = s.epoch) (a : DataAddr) :
    t.ramByte a = s.ramByte a := by
  simp only [State.ramByte, hm, he]

/-- What a word of memory reads as depends on the memory, the epoch and the device alone. -/
theorem ramWord_congr {s t : State} (hm : t.mem = s.mem) (he : t.epoch = s.epoch) (hc : t.cfg = s.cfg) (a : DataAddr) :
    t.ramWord a = s.ramWord a := by
  simp only [State.ramWord, hc, ramByte_congr hm he]

end Sys2Proof.Machine
end

