-- ==== Sys2Proof/Laws/Fields.lean ====
section
/-!
SUPPORT. What each bit-field helper does to one bit, and what the fields of the status registers are after each field update.
-/

namespace Sys2Proof.Machine

/-! ## One bit of a helper's result -/

/-- Setting a bit changes that bit alone. -/
@[simp] theorem getLsbD_setBit {n : Nat} (x : BitVec n) (b : Nat) (v : Bool) (i : Nat) :
    (setBit x b v).getLsbD i = if i = b ∧ i < n then v else x.getLsbD i := by
  unfold setBit
  cases v <;> by_cases hi : i < n <;> by_cases hb : i = b <;> simp_all [Ne.symm]

/-- A masked merge takes the new bit under the mask and the old bit elsewhere. -/
@[simp] theorem getLsbD_blend (mask old new : Word) (i : Nat) :
    (blend mask old new).getLsbD i = if mask.getLsbD i then new.getLsbD i else old.getLsbD i := by
  unfold blend
  by_cases hi : i < 16
  · cases h : mask.getLsbD i <;> simp [h, hi, -BitVec.getLsbD_eq_getElem]
  · simp [BitVec.getLsbD_of_ge, Nat.le_of_not_lt hi]

@[simp] theorem getLsbD_loByte (x : Word) (i : Nat) : (loByte x).getLsbD i = (decide (i < 8) && x.getLsbD i) := by
  simp [loByte, BitVec.getLsbD_extractLsb']

@[simp] theorem getLsbD_hiByte (x : Word) (i : Nat) : (hiByte x).getLsbD i = (decide (i < 8) && x.getLsbD (8 + i)) := by
  simp [hiByte, BitVec.getLsbD_extractLsb']

/-- A word of two bytes: the low byte first. -/
theorem getLsbD_append8 (h l : Byte) (i : Nat) :
    (h ++ l : Word).getLsbD i = if i < 8 then l.getLsbD i else h.getLsbD (i - 8) := by
  rw [BitVec.getLsbD_append]

/-- SRL replaced: bits 7:0 are the new byte, bits 15:8 are kept (R27). -/
@[simp] theorem getLsbD_srWithSrl (sr : Word) (l : Byte) (i : Nat) :
    (srWithSrl sr l).getLsbD i = if i < 8 then l.getLsbD i else sr.getLsbD i := by
  unfold srWithSrl
  rw [getLsbD_append8]
  by_cases h : i < 8
  · simp [h]
  · rw [if_neg h, if_neg h, getLsbD_hiByte, show 8 + (i - 8) = i by omega]
    by_cases h' : i < 16
    · simp [show i - 8 < 8 by omega]
    · simp [BitVec.getLsbD_of_ge sr i (by omega)]

/-- IPL<2:0> replaced: bits 7:5 are the new value, every other bit is kept (R25). -/
@[simp] theorem getLsbD_srWithIpl (sr : Word) (p : BitVec 3) (i : Nat) :
    (srWithIpl sr p).getLsbD i = if 5 ≤ i ∧ i < 8 then p.getLsbD (i - 5) else sr.getLsbD i := by
  unfold srWithIpl
  simp only [BitVec.getLsbD_append, BitVec.getLsbD_extractLsb']
  by_cases h5 : i < 5
  · simp [h5, show ¬ 5 ≤ i by omega]
  · by_cases h8 : i < 8
    · simp [h5, show 5 ≤ i by omega, h8, show i - 5 < 3 by omega]
    · by_cases h16 : i < 16
      · simp [h5, h8, show ¬ i - 5 < 3 by omega, show i - 5 - 3 < 8 by omega, show 8 + (i - 5 - 3) = i by omega]
      · simp [h5, h8, show ¬ i - 5 < 3 by omega, show ¬ i - 5 - 3 < 8 by omega,
          BitVec.getLsbD_of_ge _ i (show 16 ≤ i by omega)]

/-- After an inclusive OR bit 3 is N, bit 1 is Z, every other bit is kept (R157). -/
theorem getLsbD_srAfterIor (sr r : Word) (i : Nat) :
    (srAfterIor sr r).getLsbD i = if i = 1 then r == 0 else if i = 3 then r.getLsbD 15 else sr.getLsbD i := by
  unfold srAfterIor
  rw [getLsbD_setBit, getLsbD_setBit]
  by_cases h1 : i = 1
  · simp [h1]
  · by_cases h3 : i = 3 <;> simp [h1, h3]

/-- One byte replaced: the lane has the new byte, the other byte is kept. -/
theorem getLsbD_withLane (upper : Bool) (x : Word) (b : Byte) (i : Nat) :
    (withLane upper x b).getLsbD i =
      if i < 8 then (if upper then x.getLsbD i else b.getLsbD i)
      else (if upper then b.getLsbD (i - 8) else x.getLsbD i) := by
  unfold withLane
  cases upper
  · simp only [Bool.false_eq_true, if_false]
    rw [show hiByte x ++ b = srWithSrl x b from rfl, getLsbD_srWithSrl]
  · simp only [if_true, getLsbD_append8, getLsbD_loByte]
    by_cases h : i < 8 <;> simp [h]

/-! ## Bytes and fields of SR -/

@[simp] theorem loByte_srWithSrl (sr : Word) (l : Byte) : loByte (srWithSrl sr l) = l := by
  apply BitVec.eq_of_getLsbD_eq
  intro i hi
  rw [getLsbD_loByte, getLsbD_srWithSrl]
  simp [hi]

@[simp] theorem hiByte_srWithSrl (sr : Word) (l : Byte) : hiByte (srWithSrl sr l) = hiByte sr := by
  apply BitVec.eq_of_getLsbD_eq
  intro i hi
  simp

@[simp] theorem hiByte_srWithIpl (sr : Word) (p : BitVec 3) : hiByte (srWithIpl sr p) = hiByte sr := by
  apply BitVec.eq_of_getLsbD_eq
  intro i hi
  simp

@[simp] theorem ipl_of_srWithIpl (sr : Word) (p : BitVec 3) : (srWithIpl sr p).extractLsb' 5 3 = p := by
  apply BitVec.eq_of_getLsbD_eq
  intro i hi
  simp [hi, show 5 + i < 8 by omega]

/-- The high byte and the low byte put together again are the word. -/
@[simp] theorem srWithSrl_self (sr : Word) : srWithSrl sr (loByte sr) = sr := hiByte_append_loByte sr

/-! ## The same at a place inside the word -/

@[simp] theorem getElem_setBit {n : Nat} (x : BitVec n) (b : Nat) (v : Bool) (i : Nat) (h : i < n) :
    (setBit x b v)[i] = if i = b then v else x[i] := by
  rw [← BitVec.getLsbD_eq_getElem, getLsbD_setBit, BitVec.getLsbD_eq_getElem h]
  simp [h]

@[simp] theorem getElem_blend (mask old new : Word) (i : Nat) (h : i < 16) :
    (blend mask old new)[i] = if mask[i] then new[i] else old[i] := by
  simp only [← BitVec.getLsbD_eq_getElem, getLsbD_blend]

@[simp] theorem getElem_srWithSrl (sr : Word) (l : Byte) (i : Nat) (h : i < 16) :
    (srWithSrl sr l)[i] = if i < 8 then l.getLsbD i else sr[i] := by
  simp only [← BitVec.getLsbD_eq_getElem, getLsbD_srWithSrl]

@[simp] theorem getElem_srWithIpl (sr : Word) (p : BitVec 3) (i : Nat) (h : i < 16) :
    (srWithIpl sr p)[i] = if 5 ≤ i ∧ i < 8 then p.getLsbD (i - 5) else sr[i] := by
  simp only [← BitVec.getLsbD_eq_getElem, getLsbD_srWithIpl]

/-! ## CPUPRI -/

/-- R170: CPUPRI is IPL3 above IPL<2:0>. -/
theorem cpuPri_eq (s : State) : s.cpuPri = (if s.ipl3 then 8 else 0) + s.ipl.toNat := by
  have h : s.corcon.extractLsb' 3 1 = BitVec.ofBool s.ipl3 := by
    apply BitVec.eq_of_getLsbD_eq
    intro i hi
    have : i = 0 := by omega
    subst this
    simp [State.ipl3]
  have hlt := s.ipl.isLt
  unfold State.cpuPri
  rw [h, BitVec.toNat_append]
  change (BitVec.ofBool s.ipl3).toNat <<< 3 ||| s.ipl.toNat = _
  rw [← Nat.shiftLeft_add_eq_or_of_lt hlt]
  cases s.ipl3 <;> rfl

theorem cpuPri_le (s : State) : s.cpuPri ≤ 15 := by
  have := s.ipl.isLt
  rw [cpuPri_eq]; split <;> omega

/-- CPUPRI depends on SR and CORCON alone. -/
theorem cpuPri_congr {s t : State} (h1 : t.sr = s.sr) (h2 : t.corcon = s.corcon) : t.cpuPri = s.cpuPri := by
  simp only [State.cpuPri, h1, h2]

/-! ## Traps -/

@[simp] theorem raised_has_insert (r : TrapSet) (t x : Trap) : (r.insert t).has x = (decide (t = x) || r.has x) := by
  cases t <;> cases x <;> simp [TrapSet.insert, TrapSet.has]

theorem flagBit_lt (t : Trap) : 1 ≤ t.flagBit ∧ t.flagBit ≤ 4 := by cases t <;> decide

theorem priority_lt (t : Trap) : 11 ≤ t.priority ∧ t.priority ≤ 14 := by cases t <;> decide

/-- The four flags have four different places. -/
theorem flagBit_inj {t x : Trap} (h : t.flagBit = x.flagBit) : t = x := by
  cases t <;> cases x <;> first | rfl | exact absurd h (by decide)

/-- One bit of an AND with the mask that drops bit 0. -/
theorem getLsbD_and_FFFE (x : Word) (i : Nat) : (x &&& 0xFFFE#16).getLsbD i = (decide (i ≠ 0) && x.getLsbD i) := by
  by_cases hi : i < 16
  · simp only [BitVec.getLsbD_and]
    interval_cases i <;> simp
  · simp [BitVec.getLsbD_of_ge _ i (show 16 ≤ i by omega)]

end Sys2Proof.Machine
end

