-- ==== Sys2Proof/Laws/Ops.lean ====
section
/-!
SUPPORT. For each shared operation, once, what it can do: working registers, the trap marks, data-space reads and writes, the stack.
-/

namespace Sys2Proof.Machine

/-! ## Trap marks -/

theorem raiseIf_true (s : State) (t : Trap) : s.raiseIf true t = s.raise t := rfl
theorem raiseIf_false (s : State) (t : Trap) : s.raiseIf false t = s := rfl

@[simp] theorem raiseIf_slot (s : State) (c : Bool) (t : Trap) :
    (s.raiseIf c t).slot = { s.slot with raised := if c then s.slot.raised.insert t else s.slot.raised } := by
  cases c <;> rfl

@[simp] theorem raiseIf_wrinh (s : State) (c : Bool) (t : Trap) :
    (s.raiseIf c t).wrinh = (s.wrinh || (c && t == .addressError)) := by
  cases c
  · simp [raiseIf_false]
  · simp [raiseIf_true]

@[simp] theorem checkStackEA_slot (s : State) (ea : DataAddr) :
    (s.checkStackEA ea).slot =
      { s.slot with raised := if s.stackFaulty ea then s.slot.raised.insert .stackError else s.slot.raised } := by
  rw [State.checkStackEA, raiseIf_slot, State.stackFaulty]

@[simp] theorem checkStackEA_wrinh (s : State) (ea : DataAddr) : (s.checkStackEA ea).wrinh = s.wrinh := by
  simp [State.checkStackEA]

/-- The stack check depends on SPLIM and SPLIM_EN alone. -/
theorem stackFaulty_congr {s t : State} (h1 : t.splim = s.splim) (h2 : t.splimEn = s.splimEn) (ea : DataAddr) :
    t.stackFaulty ea = s.stackFaulty ea := by
  simp only [State.stackFaulty, h1, h2]

/-! ## Working registers -/

/-- What a register reads as depends on the register file alone. -/
theorem getW_congr {s t : State} (h : t.w = s.w) (n : WReg) : t.getW n = s.getW n := by
  simp only [State.getW, h]

theorem sameW_of_w {s t : State} (h : t.w = s.w) : SameW s t := fun n => getW_congr h n

/-- R22: W15<0> reads 0, from every state. -/
@[simp] theorem getW_15_even (s : State) : (s.getW 15).getLsbD 0 = false := by
  simp [State.getW]

@[simp] theorem sp_even (s : State) : s.sp.getLsbD 0 = false := getW_15_even s

theorem and_FFFE_of_even {x : Word} (h : x.getLsbD 0 = false) : x &&& 0xFFFE#16 = x := by
  apply BitVec.eq_of_getLsbD_eq
  intro i hi
  rw [getLsbD_and_FFFE]
  by_cases h0 : i = 0
  · subst h0; simp only [h]; rfl
  · simp [h0]

theorem sp_and (s : State) : s.sp &&& 0xFFFE#16 = s.sp := and_FFFE_of_even (sp_even s)

theorem getW_and_15 (s : State) : s.getW 15 &&& 0xFFFE#16 = s.getW 15 := sp_and s

theorem and_FFFE_idem (v : Word) : (v &&& 0xFFFE#16) &&& 0xFFFE#16 = v &&& 0xFFFE#16 := by
  rw [BitVec.and_assoc]; rfl

/-- A register write is read back, W15 without bit 0, and leaves every other register alone. -/
@[simp] theorem getW_putW (s : State) (n m : WReg) (v : Word) :
    (s.putW n v).getW m = if m = n then (if n = 15 then v &&& 0xFFFE else v) else s.getW m := by
  by_cases h : m = n
  · subst h
    by_cases h15 : m = 15
    · subst h15
      simp [State.getW, State.putW, and_FFFE_idem]
    · simp [State.getW, State.putW, h15]
  · have hv : n.val ≠ m.val := fun e => h (Fin.ext e.symm)
    simp only [State.getW, State.putW, if_neg h]
    rw [Fin.getElem_fin, Fin.getElem_fin, Vector.getElem_set_ne _ _ hv]

@[simp] theorem setW_w (s : State) (n : WReg) (v : Word) : (s.setW n v).w = (s.putW n v).w := by
  simp [State.setW]

@[simp] theorem getW_setW (s : State) (n m : WReg) (v : Word) :
    (s.setW n v).getW m = if m = n then (if n = 15 then v &&& 0xFFFE else v) else s.getW m := by
  rw [getW_congr (setW_w s n v), getW_putW]

@[simp] theorem setW_slot (s : State) (n : WReg) (v : Word) :
    (s.setW n v).slot = { s.slot with
      raised := if decide (n = 15) && decide ((v &&& 0xFFFE).toNat < 0x0800) then s.slot.raised.insert .stackError
                else s.slot.raised } := by
  simp [State.setW]

@[simp] theorem setW_wrinh (s : State) (n : WReg) (v : Word) : (s.setW n v).wrinh = s.wrinh := by
  simp [State.setW]

/-! ## Addresses -/

theorem toNat_add_two {a : DataAddr} : (a + 2).toNat = (a.toNat + 2) % 0x10000 := by
  rw [BitVec.toNat_add]; rfl

theorem toNat_sub_two {a : DataAddr} : (a - 2).toNat = (a.toNat + 0xFFFE) % 0x10000 := by
  rw [BitVec.toNat_sub, Nat.add_comm]; rfl

theorem even_iff {a : DataAddr} : a.getLsbD 0 = false ↔ a.toNat % 2 = 0 := by
  rw [BitVec.getLsbD, Nat.testBit_zero]; simp

theorem even_add_two {a : DataAddr} (h : a.getLsbD 0 = false) : (a + 2).getLsbD 0 = false := by
  rw [even_iff, toNat_add_two] at *; omega

theorem even_sub_two {a : DataAddr} (h : a.getLsbD 0 = false) : (a - 2).getLsbD 0 = false := by
  rw [even_iff, toNat_sub_two] at *; omega

/-! ## Data-space reads -/

/-- An aligned read of ordinary memory gives the word there and changes nothing. -/
theorem readWord_ram {s : State} {a : DataAddr} (h : s.RamAt a) : s.readWord a = (s.ramWord a, s) := by
  unfold State.readWord
  rw [h.even, h.implemented, h.noSfr]
  rfl

/-- An aligned read of a register all of whose bits are described gives its value and changes nothing. -/
theorem readWord_sfr {s : State} {a : DataAddr} {r : Sfr} (h : s.SfrIs a r) (h1 : r ≠ .rcon) (h2 : r ≠ .osccon) :
    s.readWord a = (s.sfrValue r, s) := by
  have h0 : r.openMask = 0 := by
    unfold Sfr.openMask
    split
    · exact absurd rfl h1
    · exact absurd rfl h2
    · rfl
  unfold State.readWord
  rw [h.even, h.implemented, h.here]
  simp only [State.readSfr, h0, if_true]
  rfl

/-- A read of an odd or unimplemented address raises AddressError and gives a free value (R80, R82). -/
theorem readWord_bad {s : State} {a : DataAddr} (h : a.getLsbD 0 = true ∨ s.cfg.dataImplemented a = false) :
    s.readWord a = (s.raise .addressError).drawWord := by
  unfold State.readWord
  rw [if_pos]
  rcases h with h | h
  · rw [h]; rfl
  · rw [h]; simp

/-- What a word read does to the state: nothing, a draw of a free value, or AddressError and a draw. -/
theorem readWord_snd_cases (s : State) (a : DataAddr) :
    (s.readWord a).2 = s ∨ (s.readWord a).2 = s.drawWord.2 ∨
      ((a.getLsbD 0 || !s.cfg.dataImplemented a) = true ∧ (s.readWord a).2 = (s.raise .addressError).drawWord.2) := by
  unfold State.readWord
  split
  · next h => exact .inr (.inr ⟨h, rfl⟩)
  · split
    · unfold State.readSfr
      split
      · exact .inl rfl
      · exact .inr (.inl rfl)
    · exact .inl rfl

/-- The one mark a word read can leave: AddressError, exactly for an odd or unimplemented address. -/
@[simp] theorem readWord_snd_slot (s : State) (a : DataAddr) :
    (s.readWord a).2.slot = { s.slot with
      raised := if a.getLsbD 0 || !s.cfg.dataImplemented a then s.slot.raised.insert .addressError
                else s.slot.raised } := by
  unfold State.readWord
  split
  · next h => simp [drawWord_snd_slot, raise_slot]
  · next h => split <;> simp

@[simp] theorem readWord_snd_wrinh (s : State) (a : DataAddr) :
    (s.readWord a).2.wrinh = (s.wrinh || (a.getLsbD 0 || !s.cfg.dataImplemented a)) := by
  unfold State.readWord
  split
  · next h => simp [h, -BitVec.getLsbD_eq_getElem]
  · next h =>
    rw [Bool.not_eq_true] at h
    rw [h]
    split <;> simp

/-! ## Data-space writes -/

/-- A word write to ordinary memory stores the word and changes nothing else. -/
theorem writeWord_ram {s : State} {a : DataAddr} (v : Word) (h : s.RamAt a) (hw : s.wrinh = false) :
    s.writeWord a v = s.putRamWord a v := by
  unfold State.writeWord
  rw [h.even, hw, h.implemented, h.noSfr]
  rfl

/-- A word write to a register is a software write (R88). -/
theorem writeWord_sfr {s : State} {a : DataAddr} {r : Sfr} (v : Word) (h : s.SfrIs a r) (hw : s.wrinh = false) :
    s.writeWord a v = s.swrite r v := by
  unfold State.writeWord
  rw [h.even, hw, h.implemented, h.here]
  rfl

/-- After an address error, and to unimplemented data space, an aligned word write changes nothing (R195, U19). -/
theorem writeWord_none {s : State} {a : DataAddr} (v : Word) (he : a.getLsbD 0 = false)
    (h : s.wrinh = true ∨ s.cfg.dataImplemented a = false) : s.writeWord a v = s := by
  unfold State.writeWord
  rw [he]
  rcases h with h | h <;> rw [h] <;> simp

/-- An odd word write raises AddressError and stores nothing (R80, R195). -/
theorem writeWord_odd {s : State} {a : DataAddr} (v : Word) (h : a.getLsbD 0 = true) :
    s.writeWord a v = s.raise .addressError := by
  unfold State.writeWord
  rw [h]; rfl

/-- The four things a word write can do. -/
theorem writeWord_cases (s : State) (a : DataAddr) (v : Word) :
    (a.getLsbD 0 = true ∧ s.writeWord a v = s.raise .addressError) ∨
    (a.getLsbD 0 = false ∧ s.writeWord a v = s) ∨
    (∃ r, s.SfrIs a r ∧ s.wrinh = false ∧ s.writeWord a v = s.swrite r v) ∨
    (s.RamAt a ∧ s.wrinh = false ∧ s.writeWord a v = s.putRamWord a v) := by
  cases he : a.getLsbD 0
  · cases hw : s.wrinh
    · cases hi : s.cfg.dataImplemented a
      · exact .inr (.inl ⟨rfl, writeWord_none v he (.inr hi)⟩)
      · cases hs : s.cfg.sfrAt a with
        | none => exact .inr (.inr (.inr ⟨⟨he, hi, hs⟩, rfl, writeWord_ram v ⟨he, hi, hs⟩ hw⟩))
        | some r => exact .inr (.inr (.inl ⟨r, ⟨he, hi, hs⟩, rfl, writeWord_sfr v ⟨he, hi, hs⟩ hw⟩))
    · exact .inr (.inl ⟨rfl, writeWord_none v he (.inl hw)⟩)
  · exact .inl ⟨rfl, writeWord_odd v he⟩

/-- A word store by an instruction either is a refused write of RCON (R46, R243) or is the write. -/
theorem storeWord_ok {s t : State} {a : DataAddr} {v : Word} (h : s.storeWord a v = .ok t) :
    (s.writesRcon a && v.getLsbD 15) = false ∧ t = s.writeWord a v := by
  unfold State.storeWord at h
  split at h
  · cases h
  · next hr => cases h; exact ⟨Bool.not_eq_true _ ▸ hr, rfl⟩

theorem storeWord_error {s : State} {a : DataAddr} {v : Word} {r : Refusal} (h : s.storeWord a v = .error r) :
    (s.writesRcon a && v.getLsbD 15) = true ∧ r = .rconOtherUse := by
  unfold State.storeWord at h
  split at h
  · next hr => cases h; exact ⟨hr, rfl⟩
  · cases h

/-- A word store is no write of RCON where another register, or none, lies. -/
theorem writesRcon_false {s : State} {a : DataAddr} (h : s.cfg.sfrAt a ≠ some .rcon) : s.writesRcon a = false := by
  simp [State.writesRcon, h]

/-- So with a push by an instruction. -/
theorem pushWord_ok {s t : State} {v : Word} (h : s.pushWord v = .ok t) :
    (s.writesRcon s.sp && v.getLsbD 15) = false ∧ t = s.push16 v := by
  unfold State.pushWord at h
  split at h
  · cases h
  · next hr => cases h; exact ⟨Bool.not_eq_true _ ▸ hr, rfl⟩

theorem pushWord_error {s : State} {v : Word} {r : Refusal} (h : s.pushWord v = .error r) :
    (s.writesRcon s.sp && v.getLsbD 15) = true ∧ r = .rconOtherUse := by
  unfold State.pushWord at h
  split at h
  · next hr => cases h; exact ⟨hr, rfl⟩
  · cases h

/-- A bit instruction's write either is a refused one of RCON (R46) or is the write of the changed byte. -/
theorem modifyByte_ok {s t : State} {a : DataAddr} {f : Byte → Byte} (h : s.modifyByte a f = .ok t) :
    (s.cfg.dataImplemented a && s.cfg.sfrAt a == some .rcon) = false ∧
      (s.readByte a).2.writeByte a (f (s.readByte a).1) = .ok t := by
  unfold State.modifyByte at h
  split at h
  · cases h
  · next hr => exact ⟨Bool.not_eq_true _ ▸ hr, h⟩

/-- An instruction that writes data space completes exactly when its write was not refused. -/
theorem completeStore_next {x : Except Refusal State} {t : State} :
    completeStore x = .next t ↔ ∃ u, x = .ok u ∧ t = u.advance.took 1 := by
  unfold completeStore
  cases x with
  | ok u => simp [eq_comm]
  | error r => simp

/-! ## The stack, where it lies in ordinary memory -/

@[simp] theorem insert_insert (r : TrapSet) (t : Trap) : (r.insert t).insert t = r.insert t := by
  cases t <;> rfl

theorem ramAt_congr {s t : State} {a : DataAddr} (hc : t.cfg = s.cfg) (h : s.RamAt a) : t.RamAt a :=
  ⟨h.even, hc ▸ h.implemented, hc ▸ h.noSfr⟩

/-- The memory after a word store depends on the memory and the device alone. -/
theorem putRamWord_mem_congr {s t : State} (hm : t.mem = s.mem) (hc : t.cfg = s.cfg) (a : DataAddr) (v : Word) :
    (t.putRamWord a v).mem = (s.putRamWord a v).mem := by
  unfold State.putRamWord
  rw [hc]
  cases s.cfg.byteOrder <;> simp [hm]

/-- A push onto ordinary memory stores the word, adds 2 to W15, raises the stack error trap when the address is faulty or W15 wraps,
and changes nothing else (R84, R186 to R188). -/
theorem push16_ram {s : State} (v : Word) (h : s.RamAt s.sp) (hw : s.wrinh = false) :
    s.push16 v = { s with
      mem := (s.putRamWord s.sp v).mem
      w := (s.putW 15 (s.sp + 2)).w
      slot := { s.slot with
        raised := if s.stackFaulty s.sp || decide (0xFFFF < s.sp.toNat + 2) then s.slot.raised.insert .stackError
                  else s.slot.raised } } := by
  have hsp : s.getW 15 = s.sp := rfl
  have hr : (s.checkStackEA s.sp).RamAt s.sp := ⟨h.even, by simpa using h.implemented, by simpa using h.noSfr⟩
  have hw' : (s.checkStackEA s.sp).wrinh = false := by simpa using hw
  have hg : ((s.checkStackEA s.sp).putRamWord s.sp v).getW 15 = s.sp := by
    rw [getW_congr (s := s) (by simp)]; rfl
  have hand : ((s.sp + 2) &&& 0xFFFE#16).toNat = (s.sp + 2).toNat := congrArg _ (and_FFFE_of_even (even_add_two (sp_even s)))
  have hfa : s.stackFaulty s.sp = (decide (s.sp.toNat < 0x0800) ||
    (s.splimEn && decide ((s.splim &&& 0xFFFE).toNat < s.sp.toNat))) := rfl
  have hlt := s.sp.isLt
  unfold State.push16
  simp only [hsp, writeWord_ram v hr hw', hg]
  rw [getW_congr (t := State.raiseIf _ _ _) (raiseIf_w _ _ _), hg]
  have hand' : (s.sp.toNat + 2) % 65536 &&& 65534 = (s.sp.toNat + 2) % 65536 := by
    simpa [BitVec.toNat_and, toNat_add_two] using hand
  apply State.ext <;> simp [hw, State.putW, hand', -raise_slot]
  · exact putRamWord_mem_congr (by simp) (by simp) _ _
  by_cases h1 : 65535 < s.sp.toNat + 2
  · rw [if_pos (show (s.sp.toNat + 2) % 65536 < 2048 by omega)]
    by_cases h2 : s.stackFaulty s.sp = true <;> simp [h1, h2]
  · by_cases h2 : s.stackFaulty s.sp = true
    · simp [h1, h2]
    · have h3 : ¬ s.sp.toNat < 2048 := by
        intro h3; exact h2 (by simp [hfa, h3])
      rw [if_neg (show ¬ (s.sp.toNat + 2) % 65536 < 2048 by omega)]
      simp [h1, h2]

/-- A pop from ordinary memory takes W15 down by 2, gives the word there, raises the stack error trap when the address is faulty, and
changes nothing else (R85 to R187). -/
theorem pop16_ram {s : State} (h : s.RamAt (s.sp - 2)) :
    s.pop16 = (s.ramWord (s.sp - 2), { s with
      w := (s.putW 15 (s.sp - 2)).w
      slot := { s.slot with
        raised := if s.stackFaulty (s.sp - 2) then s.slot.raised.insert .stackError else s.slot.raised } }) := by
  have hev := even_sub_two (sp_even s)
  have hand : (s.sp - 2) &&& 0xFFFE#16 = s.sp - 2 := and_FFFE_of_even hev
  have hg : (s.setW 15 (s.sp - 2)).getW 15 = s.sp - 2 := by rw [getW_setW, if_pos rfl, if_pos rfl]; exact hand
  unfold State.pop16
  rw [show s.getW 15 = s.sp from rfl]
  simp only [hg]
  rw [readWord_ram (ramAt_congr (s := s) (by simp) h)]
  refine Prod.ext (ramWord_congr (by simp) (by simp) (by simp) _) ?_
  have hfa : s.stackFaulty (s.sp - 2) = (decide ((s.sp - 2).toNat < 0x0800) ||
    (s.splimEn && decide ((s.splim &&& 0xFFFE).toNat < (s.sp - 2).toNat))) := rfl
  have hf2 : (s.setW 15 (s.sp - 2)).stackFaulty (s.sp - 2) = s.stackFaulty (s.sp - 2) :=
    stackFaulty_congr (by simp) (by simp) _
  generalize s.sp - 2 = p at *
  have hand' : p.toNat &&& 65534 = p.toNat := by
    simpa using congrArg BitVec.toNat hand
  apply State.ext <;> simp [-raise_slot, State.putW]
  rw [hf2, hand']
  by_cases h1 : p.toNat < 2048
  · have h2 : s.stackFaulty p = true := by simp [hfa, h1]
    simp [h1, h2]
  · simp [h1]

/-! ## Frames -/

theorem pop16_w (s : State) : s.pop16.2.w = (s.putW 15 (s.sp - 2)).w := by
  simp [State.pop16, State.sp]

theorem pop16_sp (s : State) : s.pop16.2.sp = s.sp - 2 := by
  rw [State.sp, getW_congr (pop16_w s), getW_putW, if_pos rfl, if_pos rfl]
  exact and_FFFE_of_even (even_sub_two (sp_even s))

/-- Two pops take W15 down by 4, from every state (R126, R142). -/
theorem popFrame_sp (s : State) : s.popFrame.2.2.getW 15 = s.sp - 4 := by
  show s.pop16.2.pop16.2.sp = _
  rw [pop16_sp, pop16_sp]; bv_omega

theorem popFrame_otherW (s : State) (n : WReg) (h : n ≠ 15) : s.popFrame.2.2.getW n = s.getW n := by
  show s.pop16.2.pop16.2.getW n = _
  rw [getW_congr (pop16_w _), getW_putW, if_neg h, getW_congr (pop16_w _), getW_putW, if_neg h]

/-- Two pops from ordinary memory: the words, W15, the marks, and nothing else. -/
theorem popFrame_ram {s : State} (h1 : s.RamAt (s.sp - 2)) (h2 : s.RamAt (s.sp - 4)) :
    s.popFrame = (s.ramWord (s.sp - 2), s.ramWord (s.sp - 4), { s with
      w := (s.putW 15 (s.sp - 4)).w
      slot := { s.slot with
        raised := if s.stackFaulty (s.sp - 2) || s.stackFaulty (s.sp - 4) then s.slot.raised.insert .stackError
                  else s.slot.raised } }) := by
  have e : ∀ t : State, t.sp = s.sp - 2 → t.sp - 2 = s.sp - 4 := by intro t h; rw [h]; bv_omega
  have hsp := pop16_sp s
  have e2 := e _ hsp
  unfold State.popFrame
  have hp := pop16_ram (s := s.pop16.2) (by rw [e2]; exact ramAt_congr (by simp) h2)
  simp only [hp, e2]
  rw [ramWord_congr (s := s) (t := s.pop16.2) (by simp) (by simp) (by simp)]
  rw [stackFaulty_congr (s := s) (t := s.pop16.2) (by simp) (by simp)]
  have hq := pop16_ram (s := s) h1
  rw [hq]
  refine Prod.ext rfl (Prod.ext rfl ?_)
  apply State.ext <;> simp [State.putW]
  · cases s.stackFaulty (s.sp - 2) <;> cases s.stackFaulty (s.sp - 4) <;> simp

/-- The two pushes of an entry onto ordinary memory: the words, W15, the marks, the two buffers, and nothing else (R86, R205). -/
theorem pushFrame_ram {s : State} (h : s.FrameInRam) (hw : s.wrinh = false) :
    s.pushFrame = { s with
      pcbuf := s.pc
      srlbuf := s.srl
      mem := ((s.putRamWord s.sp (frameLow s.pc)).putRamWord (s.sp + 2) (frameHigh s.srl s.ipl3 s.pc)).mem
      w := (s.putW 15 (s.sp + 4)).w
      slot := { s.slot with
        raised := if s.stackFaulty s.sp || decide (0xFFFF < s.sp.toNat + 2) || s.stackFaulty (s.sp + 2)
                      || decide (0xFFFF < (s.sp + 2).toNat + 2) then s.slot.raised.insert .stackError
                  else s.slot.raised } } := by
  have h1 := push16_ram (s := { s with pcbuf := s.pc, srlbuf := s.srl }) (frameLow s.pc)
    (ramAt_congr (s := s) rfl h.low) hw
  have hsp1 : (State.push16 { s with pcbuf := s.pc, srlbuf := s.srl } (frameLow s.pc)).sp = s.sp + 2 := by
    rw [h1, State.sp]
    show (s.putW 15 (s.sp + 2)).getW 15 = _
    rw [getW_putW, if_pos rfl, if_pos rfl]
    exact and_FFFE_of_even (even_add_two (sp_even s))
  have h2 := push16_ram (s := State.push16 { s with pcbuf := s.pc, srlbuf := s.srl } (frameLow s.pc))
    (frameHigh s.srl s.ipl3 s.pc) (by rw [hsp1]; exact ramAt_congr (s := s) (by simp) h.high) (by rw [h1]; exact hw)
  unfold State.pushFrame
  simp only
  rw [h2, hsp1, stackFaulty_congr (s := s) (t := State.push16 _ _) (by rw [h1]) (by rw [h1])]
  rw [show s.sp + 2 + 2 = s.sp + 4 by bv_omega]
  rw [h1]
  apply State.ext <;> simp [State.putW]
  · refine putRamWord_mem_congr (s := s.putRamWord s.sp (frameLow s.pc)) ?_ (by simp) _ _
    exact putRamWord_mem_congr (s := s) (t := { s with pcbuf := s.pc, srlbuf := s.srl }) rfl rfl s.sp (frameLow s.pc)
  · generalize hA : s.stackFaulty (s.sp + 2#16) = A
    generalize hB : s.stackFaulty s.sp = B
    change (if A = true ∨ _ then
      (if s.stackFaulty s.sp = true ∨ 65535 < s.sp.toNat + 2 then s.slot.raised.insert .stackError
        else s.slot.raised).insert .stackError
      else if s.stackFaulty s.sp = true ∨ 65535 < s.sp.toNat + 2 then s.slot.raised.insert .stackError
        else s.slot.raised) = _
    rw [hB]
    by_cases h1 : 65535 < s.sp.toNat + 2 <;> cases A <;> cases B <;> simp [h1]

end Sys2Proof.Machine
end

