-- ==== Sys2Proof/Laws/Kept.lean ====
section
/-!
SUPPORT. Each shared operation keeps `State.WellKept`: one lemma per operation.
-/

namespace Sys2Proof.Machine

/-! ## Masks -/

/-- No bit outside a mask is set, said bit by bit. -/
theorem impl_iff {x m : Word} : x &&& ~~~m = 0 ↔ ∀ i, x.getLsbD i = true → m.getLsbD i = true := by
  constructor
  · intro h i hx
    by_contra hm
    have hi : i < 16 := by
      by_contra hi
      rw [BitVec.getLsbD_of_ge _ _ (by omega)] at hx
      exact absurd hx (by simp)
    have := congrArg (fun y : Word => y.getLsbD i) h
    simp [hx, hm, hi, -BitVec.getLsbD_eq_getElem] at this
  · intro h
    apply BitVec.eq_of_getLsbD_eq
    intro i hi
    cases hx : x.getLsbD i
    · simp [hx, -BitVec.getLsbD_eq_getElem]
    · simp [hx, h i hx, -BitVec.getLsbD_eq_getElem]

/-- A masked merge under the implemented bits, or under fewer, sets no other bit. -/
theorem blend_impl {mask m old new : Word} (hm : ∀ i, mask.getLsbD i = true → m.getLsbD i = true)
    (h : old &&& ~~~m = 0) : blend mask old new &&& ~~~m = 0 := by
  rw [impl_iff] at *
  intro i hi
  rw [getLsbD_blend] at hi
  split at hi
  · next hk => exact hm i hk
  · exact h i hi

/-- Setting an implemented bit sets no unimplemented one. -/
theorem setBit_impl {x m : Word} {b : Nat} {v : Bool} (hb : v = true → m.getLsbD b = true) (h : x &&& ~~~m = 0) :
    setBit x b v &&& ~~~m = 0 := by
  rw [impl_iff] at *
  intro i hi
  rw [getLsbD_setBit] at hi
  split at hi
  · next hk => rw [hk.1]; exact hb hi
  · exact h i hi

/-- The bits of SR that exist. -/
theorem implMask_sr (d : Device) (i : Nat) : (d.implMask .sr).getLsbD i = decide (i < 9) := by
  show (0x01FF#16).getLsbD i = _
  by_cases h : i < 16
  · interval_cases i <;> rfl
  · rw [BitVec.getLsbD_of_ge _ _ (by omega)]; simp; omega

/-! ## What the invariant depends on -/

/-- The invariant depends on these fields alone. -/
theorem State.WellKept.congr {s t : State} (h : s.WellKept) (h1 : t.pc = s.pc) (h2 : t.w = s.w) (h3 : t.splim = s.splim)
    (h4 : t.sr = s.sr) (h5 : t.corcon = s.corcon) (h6 : t.intcon1 = s.intcon1) (h7 : t.intcon2 = s.intcon2)
    (h8 : t.ifs = s.ifs) (h9 : t.iec = s.iec) (h10 : t.ipc = s.ipc) (h11 : t.disicnt = s.disicnt)
    (h12 : t.skidStack = s.skidStack) (h13 : t.skidMath = s.skidMath) (h14 : t.mem = s.mem) (h15 : t.prog = s.prog)
    (h16 : t.cfg = s.cfg) : t.WellKept := by
  have hd : t.disiBit = s.disiBit := by simp only [State.disiBit, h7]
  constructor
  · rw [h1]; exact h.pc_even
  · simp only [h2]; exact h.w15_even
  · rw [h3]; exact h.splim_even
  · rw [h4, h16]; exact h.sr_impl
  · rw [h5, h16]; exact h.corcon_impl
  · rw [h6, h16]; exact h.intcon1_impl
  · rw [h7, h16]; exact h.intcon2_impl
  · simp only [h8, h16]; exact h.ifs_impl
  · simp only [h9, h16]; exact h.iec_impl
  · simp only [h10, h16]; exact h.ipc_impl
  · rw [hd, h11]; exact h.disi_counts
  · rw [h12, h16]; exact h.skidStack_le
  · rw [h13, h16]; exact h.skidMath_le
  · rw [h14]; exact h.mem_wf
  · rw [h15]; exact h.prog_wf

variable {s : State}

theorem State.WellKept.raise (h : s.WellKept) (t : Trap) : (s.raise t).WellKept := by apply h.congr <;> simp
theorem State.WellKept.raiseAll (h : s.WellKept) (r : TrapSet) : (s.raiseAll r).WellKept := by apply h.congr <;> simp
theorem State.WellKept.raiseIf (h : s.WellKept) (c : Bool) (t : Trap) : (s.raiseIf c t).WellKept := by apply h.congr <;> simp
theorem State.WellKept.checkStackEA (h : s.WellKept) (a : DataAddr) : (s.checkStackEA a).WellKept := by apply h.congr <;> simp
theorem State.WellKept.drawWord (h : s.WellKept) : s.drawWord.2.WellKept := by apply h.congr <;> simp
theorem State.WellKept.noteWrite (h : s.WellKept) (r : Sfr) (m : Word) : (s.noteWrite r m).WellKept := by apply h.congr <;> simp
theorem State.WellKept.begin (h : s.WellKept) : s.begin.WellKept := by apply h.congr <;> simp
theorem State.WellKept.took (h : s.WellKept) (c : Nat) : (s.took c).WellKept := by apply h.congr <;> simp
theorem State.WellKept.beginEntry (h : s.WellKept) : s.beginEntry.WellKept := by apply h.congr <;> simp
theorem State.WellKept.leaveStall (h : s.WellKept) (src : Source) : (s.leaveStall src).WellKept := by apply h.congr <;> simp
theorem State.WellKept.readWord (h : s.WellKept) (a : DataAddr) : (s.readWord a).2.WellKept := by apply h.congr <;> simp
theorem State.WellKept.readByte (h : s.WellKept) (a : DataAddr) : (s.readByte a).2.WellKept := by apply h.congr <;> simp
theorem State.WellKept.progRead (h : s.WellKept) (a : ProgAddr) : (s.progRead a).2.WellKept := by apply h.congr <;> simp
theorem State.WellKept.wake (h : s.WellKept) : s.wake.WellKept := by apply h.congr <;> simp

theorem State.WellKept.setPinprev (h : s.WellKept) (p : BitVec 5) : State.WellKept { s with pinprev := p } :=
  ⟨h.1, h.2, h.3, h.4, h.5, h.6, h.7, h.8, h.9, h.10, h.11, h.12, h.13, h.14, h.15⟩

/-- A PC with bit 0 clear keeps the invariant. -/
theorem State.WellKept.setPc (h : s.WellKept) {p : ProgAddr} (hp : p.getLsbD 0 = false) :
    (s.setPc p).WellKept := ⟨hp, h.2, h.3, h.4, h.5, h.6, h.7, h.8, h.9, h.10, h.11, h.12, h.13, h.14, h.15⟩

theorem pc_even_iff {p : ProgAddr} : p.getLsbD 0 = false ↔ p.toNat % 2 = 0 := by
  rw [BitVec.getLsbD, Nat.testBit_zero]; simp

theorem pc_add_two_even {p : ProgAddr} (h : p.getLsbD 0 = false) : (p + 2).getLsbD 0 = false := by
  rw [pc_even_iff] at *
  rw [BitVec.toNat_add, show (2 : ProgAddr).toNat = 2 from rfl]; omega

/-- So does an increment of the PC to an even address. -/
theorem State.WellKept.advanceBy (h : s.WellKept) {n : Nat} (hp : (s.pc + BitVec.ofNat 23 n).getLsbD 0 = false) :
    (s.advanceBy n).WellKept := ⟨hp, h.2, h.3, h.4, h.5, h.6, h.7, h.8, h.9, h.10, h.11, h.12, h.13, h.14, h.15⟩

theorem State.WellKept.advance (h : s.WellKept) : s.advance.WellKept := h.advanceBy (pc_add_two_even h.pc_even)

/-- A relative branch from an even address goes to an even one. -/
theorem braTarget_even {p : ProgAddr} (n : BitVec 16) (h : p.getLsbD 0 = false) : (braTarget p n).getLsbD 0 = false := by
  have h2 := pc_add_two_even h
  unfold braTarget
  generalize p + 2 = q at *
  rw [pc_even_iff] at *
  rw [BitVec.toNat_add, BitVec.toNat_shiftLeft, Nat.shiftLeft_eq]
  omega

/-- A popped PC has bit 0 clear (R126, R142). -/
theorem framePc_even (hi lo : Word) : (framePc hi lo).getLsbD 0 = false := by
  rw [framePc, BitVec.getLsbD_append]; rfl

theorem State.WellKept.jump (h : s.WellKept) {a : ProgAddr} (ha : a.getLsbD 0 = false) : (s.jump a).WellKept :=
  (h.raiseIf _ _).setPc ha

/-! ## Registers and memory -/

theorem State.WellKept.putW (h : s.WellKept) (n : WReg) (v : Word) : (s.putW n v).WellKept := by
  refine ⟨h.1, ?_, h.3, h.4, h.5, h.6, h.7, h.8, h.9, h.10, h.11, h.12, h.13, h.14, h.15⟩
  have h15 := h.w15_even
  simp only [State.putW]
  by_cases hn : n = 15
  · subst hn
    simp
  · have hv : n.val ≠ 15 := fun e => hn (Fin.ext e)
    rw [Vector.getElem_set_ne _ _ hv]
    exact h15

theorem State.WellKept.setW (h : s.WellKept) (n : WReg) (v : Word) : (s.setW n v).WellKept := (h.putW n v).raiseIf _ _

theorem State.WellKept.putRamWord (h : s.WellKept) (a : DataAddr) (v : Word) : (s.putRamWord a v).WellKept := by
  have hm := putRamWord_wf (a := a) (v := v) h.mem_wf
  have hc := (h.congr (t := { s.putRamWord a v with mem := s.mem }) (by simp) (by simp) (by simp) (by simp) (by simp)
    (by simp) (by simp) (by simp) (by simp) (by simp) (by simp) (by simp) (by simp) (by simp) (by simp) (by simp))
  exact ⟨hc.1, hc.2, hc.3, hc.4, hc.5, hc.6, hc.7, hc.8, hc.9, hc.10, hc.11, hc.12, hc.13, hm, hc.15⟩

theorem State.WellKept.putRamByte (h : s.WellKept) (a : DataAddr) (b : Byte) : (s.putRamByte a b).WellKept := 
  ⟨h.1, h.2, h.3, h.4, h.5, h.6, h.7, h.8, h.9, h.10, h.11, h.12, h.13, putRamByte_wf h.mem_wf, h.15⟩

theorem State.WellKept.setSr (h : s.WellKept) {x : Word} (hx : x &&& ~~~s.cfg.implMask .sr = 0) :
    State.WellKept { s with sr := x } := ⟨h.1, h.2, h.3, hx, h.5, h.6, h.7, h.8, h.9, h.10, h.11, h.12, h.13, h.14, h.15⟩

theorem State.WellKept.setCorcon (h : s.WellKept) {x : Word} (hx : x &&& ~~~s.cfg.implMask .corcon = 0) :
    State.WellKept { s with corcon := x } :=
  ⟨h.1, h.2, h.3, h.4, hx, h.6, h.7, h.8, h.9, h.10, h.11, h.12, h.13, h.14, h.15⟩

theorem State.WellKept.setIntcon1 (h : s.WellKept) {x : Word} (hx : x &&& ~~~s.cfg.implMask .intcon1 = 0) :
    State.WellKept { s with intcon1 := x } :=
  ⟨h.1, h.2, h.3, h.4, h.5, hx, h.7, h.8, h.9, h.10, h.11, h.12, h.13, h.14, h.15⟩

theorem State.WellKept.setIfs (h : s.WellKept) (n : Nat) (hn : n < 8) {x : Word}
    (hx : x &&& ~~~s.cfg.implMask (.ifs ⟨n, hn⟩) = 0) : State.WellKept { s with ifs := s.ifs.set n x } := by
  refine ⟨h.1, h.2, h.3, h.4, h.5, h.6, h.7, ?_, h.9, h.10, h.11, h.12, h.13, h.14, h.15⟩
  intro m
  simp only [Fin.getElem_fin, Vector.getElem_set]
  split
  · next e => subst e; exact hx
  · exact h.ifs_impl m

theorem State.WellKept.setIec (h : s.WellKept) (n : Fin 8) {x : Word}
    (hx : x &&& ~~~s.cfg.implMask (.iec n) = 0) : State.WellKept { s with iec := s.iec.set n x } := by
  refine ⟨h.1, h.2, h.3, h.4, h.5, h.6, h.7, h.8, ?_, h.10, h.11, h.12, h.13, h.14, h.15⟩
  intro m
  simp only [Fin.getElem_fin, Vector.getElem_set]
  split
  · next e => rw [show m = n from Fin.ext e.symm]; exact hx
  · exact h.iec_impl m

theorem State.WellKept.setIpc (h : s.WellKept) (n : Fin 30) {x : Word}
    (hx : x &&& ~~~s.cfg.implMask (.ipc n) = 0) : State.WellKept { s with ipc := s.ipc.set n x } := by
  refine ⟨h.1, h.2, h.3, h.4, h.5, h.6, h.7, h.8, h.9, ?_, h.11, h.12, h.13, h.14, h.15⟩
  intro m
  simp only [Fin.getElem_fin, Vector.getElem_set]
  split
  · next e => rw [show m = n from Fin.ext e.symm]; exact hx
  · exact h.ipc_impl m

theorem State.WellKept.setSkid (h : s.WellKept) {a b c : Nat} (ha : a ≤ s.cfg.skidMax) (hb : b ≤ s.cfg.skidMax) :
    State.WellKept { s with skidStack := a, skidMath := b, freeCount := c } :=
  ⟨h.1, h.2, h.3, h.4, h.5, h.6, h.7, h.8, h.9, h.10, h.11, ha, hb, h.14, h.15⟩

/-- A new INTCON2 and DISICNT that agree on whether a DISI is in effect keep the invariant. -/
theorem State.WellKept.setDisi (h : s.WellKept) {x : Word} {c : BitVec 14} (hx : x &&& ~~~s.cfg.implMask .intcon2 = 0)
    (hc : x.getLsbD 14 = true → c ≠ 0) : State.WellKept { s with intcon2 := x, disicnt := c } :=
  ⟨h.1, h.2, h.3, h.4, h.5, h.6, hx, h.8, h.9, h.10, hc, h.12, h.13, h.14, h.15⟩

theorem epMask_lt (d : Device) (i : Nat) : d.epMask.getLsbD i = decide (i < d.nExtInt.val) := by
  unfold Device.epMask
  rw [BitVec.getLsbD_ofNat, Nat.testBit_two_pow_sub_one]
  have := d.nExtInt.isLt
  by_cases h : i < d.nExtInt.val
  · simp [h]; omega
  · simp [h]

theorem implMask_intcon2_14 (d : Device) : (d.implMask .intcon2).getLsbD 14 = true := by
  show (0xC000#16 ||| d.epMask).getLsbD 14 = true
  rw [BitVec.getLsbD_or]; simp

theorem State.WellKept.writeIntcon1 (h : s.WellKept) (v : Word) : (s.writeIntcon1 v).WellKept := by
  refine State.WellKept.raiseAll (s := { s with intcon1 := _ }) (h.setIntcon1 ?_) _
  rw [impl_iff]
  intro i hi
  show (0x801E#16).getLsbD i = true
  have h16 : i < 16 := by
    by_contra hc
    rw [BitVec.getLsbD_of_ge _ _ (by omega)] at hi
    exact absurd hi (by simp)
  have : (s.trapFlagsSetBy v).getLsbD i = true → (0x001E#16).getLsbD i = true := by
    unfold State.trapFlagsSetBy
    split
    · rw [BitVec.getLsbD_and]; intro hq; exact (Bool.and_eq_true_iff.1 hq).2
    · intro hq; simp at hq
  rw [BitVec.getLsbD_or, BitVec.getLsbD_or, BitVec.getLsbD_and, BitVec.getLsbD_and] at hi
  interval_cases i <;> first | rfl | (exfalso; revert this hi; simp)

/-- A software write of a register keeps the invariant. -/
theorem State.WellKept.storeSfr (h : s.WellKept) (r : Sfr) (v : Word) : (s.storeSfr r v).WellKept := by
  cases r with
  | w n => exact h.setW n v
  | splim =>
    refine ⟨h.1, h.2, ?_, h.4, h.5, h.6, h.7, h.8, h.9, h.10, h.11, h.12, h.13, h.14, h.15⟩
    simp only [State.storeSfr]
    exact getLsbD_and_FFFE v 0
  | sr =>
    refine h.setSr (blend_impl ?_ h.sr_impl)
    intro i
    rw [implMask_sr]
    unfold State.srWritable
    by_cases hi : i < 16
    · split <;> interval_cases i <;> decide
    · rw [BitVec.getLsbD_of_ge _ _ (by omega)]; simp
  | corcon =>
    refine h.setCorcon ?_
    have hb := blend_impl (mask := 0x0004#16) (m := s.cfg.implMask .corcon) (new := v) ?_ h.corcon_impl
    · rw [impl_iff] at *
      intro i hi
      rw [BitVec.getLsbD_and] at hi
      exact hb i (Bool.and_eq_true_iff.1 hi).1
    · intro i
      show _ → (0x000C#16).getLsbD i = true
      by_cases hi : i < 16
      · interval_cases i <;> decide
      · rw [BitVec.getLsbD_of_ge _ _ (by omega)]; simp
  | disicnt =>
    refine h.setDisi ?_ ?_
    · split
      · exact setBit_impl (by simp) h.intcon2_impl
      · exact h.intcon2_impl
    · split
      · simp
      · next hc =>
        intro h14 h0
        refine hc ?_
        rw [show s.disiBit = true from h14, h0]; rfl
  | intcon1 => exact h.writeIntcon1 v
  | intcon2 =>
    refine ⟨h.1, h.2, h.3, h.4, h.5, h.6, blend_impl ?_ h.intcon2_impl, h.8, h.9, h.10, ?_, h.12, h.13, h.14, h.15⟩
    · intro i hi
      show (0xC000#16 ||| s.cfg.epMask).getLsbD i = true
      rw [BitVec.getLsbD_or] at *
      rcases Bool.or_eq_true_iff.1 hi with hi | hi
      · have h16 : i < 16 := by
          by_contra hc
          rw [BitVec.getLsbD_of_ge _ _ (by omega)] at hi
          exact absurd hi (by simp)
        interval_cases i <;> first | (simp at hi; done) | simp
      · simp [hi, -BitVec.getLsbD_eq_getElem]
    · have he := s.cfg.nExtInt.isLt
      have : (blend (0x8000 ||| s.cfg.epMask) s.intcon2 v).getLsbD 14 = s.intcon2.getLsbD 14 := by
        rw [getLsbD_blend, BitVec.getLsbD_or, epMask_lt, show decide (14 < s.cfg.nExtInt.val) = false by simp; omega]
        simp
      show (blend (0x8000 ||| s.cfg.epMask) s.intcon2 v).getLsbD 14 = true → _
      rw [this]
      exact h.disi_counts
  | ifs n => exact h.setIfs n.val n.isLt (blend_impl (fun _ hi => hi) (h.ifs_impl n))
  | iec n => exact h.setIec n (blend_impl (fun _ hi => hi) (h.iec_impl n))
  | ipc n => exact h.setIpc n (blend_impl (fun _ hi => hi) (h.ipc_impl n))
  | rcon => exact h.congr rfl rfl rfl rfl rfl rfl rfl rfl rfl rfl rfl rfl rfl rfl rfl rfl
  | osccon => exact h.congr rfl rfl rfl rfl rfl rfl rfl rfl rfl rfl rfl rfl rfl rfl rfl rfl

theorem State.WellKept.swrite (h : s.WellKept) (r : Sfr) (v : Word) : (s.swrite r v).WellKept := (h.storeSfr r v).noteWrite _ _

theorem State.WellKept.writeWord (h : s.WellKept) (a : DataAddr) (v : Word) : (s.writeWord a v).WellKept := by
  rcases writeWord_cases s a v with ⟨-, e⟩ | ⟨-, e⟩ | ⟨r, -, -, e⟩ | ⟨-, -, e⟩ <;> rw [e]
  · exact h.raise _
  · exact h
  · exact h.swrite r v
  · exact h.putRamWord a v

theorem State.WellKept.storeWord (h : s.WellKept) {a : DataAddr} {v : Word} {t : State} (e : s.storeWord a v = .ok t) :
    t.WellKept := (storeWord_ok e).2 ▸ h.writeWord a v

theorem State.WellKept.writeByte (h : s.WellKept) {a : DataAddr} {b : Byte} {t : State} (e : s.writeByte a b = .ok t) :
    t.WellKept := by
  unfold State.writeByte at e
  split at e
  · cases e; exact h
  · split at e
    · unfold State.swriteByte at e
      split at e
      · cases e
      · split at e
        · cases e
        · split at e
          · cases e
          · cases e; exact (h.storeSfr _ _).noteWrite _ _
    · cases e; exact h.putRamByte a b

theorem State.WellKept.modifyByte (h : s.WellKept) {a : DataAddr} {f : Byte → Byte} {t : State}
    (e : s.modifyByte a f = .ok t) : t.WellKept := (h.readByte a).writeByte (modifyByte_ok e).2

theorem State.WellKept.push16 (h : s.WellKept) (v : Word) : (s.push16 v).WellKept :=
  (((h.checkStackEA _).writeWord _ v).raiseIf _ _).setW _ _

theorem State.WellKept.pushWord (h : s.WellKept) {v : Word} {t : State} (e : s.pushWord v = .ok t) : t.WellKept :=
  (pushWord_ok e).2 ▸ h.push16 v

theorem State.WellKept.pop16 (h : s.WellKept) : s.pop16.2.WellKept := ((h.setW _ _).checkStackEA _).readWord _

theorem State.WellKept.popFrame (h : s.WellKept) : s.popFrame.2.2.WellKept := h.pop16.pop16

/-! ## Exceptions -/

theorem srWithIpl_impl {d : Device} {x : Word} (p : BitVec 3) (h : x &&& ~~~d.implMask .sr = 0) :
    srWithIpl x p &&& ~~~d.implMask .sr = 0 := by
  rw [impl_iff] at *
  intro i hi
  rw [getLsbD_srWithIpl] at hi
  split at hi
  · next hk => rw [implMask_sr]; simp; omega
  · exact h i hi

theorem srWithSrl_impl {d : Device} {x : Word} (l : Byte) (h : x &&& ~~~d.implMask .sr = 0) :
    srWithSrl x l &&& ~~~d.implMask .sr = 0 := by
  rw [impl_iff] at *
  intro i hi
  rw [getLsbD_srWithSrl] at hi
  split at hi
  · next hk => rw [implMask_sr]; simp; omega
  · exact h i hi

theorem setIpl3_impl {d : Device} {x : Word} (v : Bool) (h : x &&& ~~~d.implMask .corcon = 0) :
    setBit x 3 v &&& ~~~d.implMask .corcon = 0 := setBit_impl (fun _ => (by decide : (0x000C#16).getLsbD 3 = true)) h

theorem State.WellKept.pushFrame (h : s.WellKept) : s.pushFrame.WellKept :=
  ((h.congr (t := { s with pcbuf := s.pc, srlbuf := s.srl }) rfl rfl rfl rfl rfl rfl rfl rfl rfl rfl rfl rfl rfl rfl rfl
    rfl).push16 _).push16 _

theorem State.WellKept.enterPriority (h : s.WellKept) (src : Source) (p : Nat) : (s.enterPriority src p).WellKept := by
  cases src with
  | irq v => exact h.setSr (srWithIpl_impl _ h.sr_impl)
  | trap t =>
    exact (h.setSr (x := srWithIpl s.sr _) (srWithIpl_impl _ h.sr_impl)).setCorcon (setIpl3_impl _ h.corcon_impl)

theorem State.WellKept.loadVector (h : s.WellKept) (k : Nat) : (s.loadVector k).WellKept :=
  (h.progRead _).setPc (by rw [BitVec.getLsbD_append]; rfl)

theorem State.WellKept.enter (h : s.WellKept) (src : Source) : (s.enter src).WellKept :=
  (((h.pushFrame.enterPriority src _).loadVector _).leaveStall src).congr rfl rfl rfl rfl rfl rfl rfl rfl rfl rfl rfl rfl
    rfl rfl rfl rfl

theorem State.WellKept.returnFromException (h : s.WellKept) : s.returnFromException.WellKept :=
  ((h.popFrame.setSr (srWithSrl_impl _ h.popFrame.sr_impl)).setCorcon
    (setIpl3_impl _ h.popFrame.corcon_impl)).setPc (framePc_even _ _)

/-- A device reset of any cause makes the invariant true, where program memory has its canonical form. -/
theorem deviceReset_wellKept (s : State) (c : ResetCause) (hp : ProgMemory.wf s.prog = true) :
    (s.deviceReset c).WellKept := by
  refine ⟨(by decide : (0 : ProgAddr).getLsbD 0 = false), (by decide : State.reset.w[15].getLsbD 0 = false),
    getLsbD_and_FFFE _ 0, BitVec.zero_and, BitVec.zero_and, BitVec.zero_and, BitVec.zero_and,
    ?_, ?_, ?_, ?_, Nat.zero_le _, Nat.zero_le _, rfl, hp⟩
  · intro n
    simp only [State.deviceReset, State.reset]
    rw [Fin.getElem_fin, Vector.getElem_replicate]; exact BitVec.zero_and
  · intro n
    simp only [State.deviceReset, State.reset]
    rw [Fin.getElem_fin, Vector.getElem_replicate]; exact BitVec.zero_and
  · intro n
    simp only [State.deviceReset]
    rw [Fin.getElem_fin, Vector.getElem_ofFn]
    rw [impl_iff]
    intro i hi
    exact (Bool.and_eq_true_iff.1 ((BitVec.getLsbD_and ..).symm.trans hi)).2
  · intro hd; exact absurd (show State.reset.disiBit = true from hd) (by decide)

/-! ## The steps of a slot -/

theorem State.WellKept.tickSkid (h : s.WellKept) : s.tickSkid.WellKept :=
  (h.setSkid (a := s.skidStack - 1) (b := s.skidMath - 1) (c := s.freeCount) (by have := h.skidStack_le; omega)
    (by have := h.skidMath_le; omega)).congr rfl rfl rfl rfl rfl rfl rfl rfl rfl rfl rfl rfl rfl rfl rfl rfl

theorem State.WellKept.requestIrq (h : s.WellKept) (v : Vec) : (s.requestIrq v).WellKept := by
  unfold State.requestIrq
  split
  · next hc =>
    refine h.setIfs _ (by omega) (setBit_impl (fun _ => ?_) (h.ifs_impl ⟨v.val / 16, by omega⟩))
    have hv : s.cfg.implVec.getLsbD v.val = true := (Bool.and_eq_true_iff.1 hc).1
    show (s.cfg.implVec.extractLsb' (16 * (v.val / 16)) 16).getLsbD (v.val % 16) = true
    rw [BitVec.getLsbD_extractLsb', show 16 * (v.val / 16) + v.val % 16 = v.val by omega, hv]
    simp; omega
  · exact h

theorem State.WellKept.detectEdge (h : s.WellKept) (p : BitVec 5) (x : Fin 5) : (s.detectEdge p x).WellKept := by
  unfold State.detectEdge
  split
  · exact h.requestIrq _
  · exact h

/-- What a step keeps, a fold of steps keeps. -/
theorem foldl_wellKept {α : Type} {f : State → α → State} (hf : ∀ t : State, t.WellKept → ∀ a, (f t a).WellKept) :
    ∀ (l : List α) (t : State), t.WellKept → (l.foldl f t).WellKept
  | [], _, h => h
  | a :: l, t, h => foldl_wellKept hf l (f t a) (hf t h a)

theorem State.WellKept.cycleEvents (h : s.WellKept) (c : CycleInput) : (s.cycleEvents c).WellKept :=
  (foldl_wellKept (fun _ ht x => ht.detectEdge c.pins x) _ _
    (foldl_wellKept (fun _ ht v => ht.requestIrq v) c.reqs s h)).setPinprev c.pins

theorem implMask_flagBit (d : Device) (t : Trap) : (d.implMask .intcon1).getLsbD t.flagBit = true := by
  show (0x801E#16).getLsbD t.flagBit = true
  cases t <;> decide

theorem State.WellKept.setTrapFlag (h : s.WellKept) (t : Trap) : (s.setTrapFlag t).WellKept :=
  h.setIntcon1 (setBit_impl (fun _ => implMask_flagBit s.cfg t) h.intcon1_impl)

theorem State.WellKept.setCf (h : s.WellKept) : s.setCf.WellKept := by apply h.congr <;> simp

theorem drawSkid_le (s : State) : s.drawSkid ≤ s.cfg.skidMax := by
  have := Nat.mod_lt (Config.freeSkid s.freeCount) (show 0 < s.cfg.skidMax + 1 by omega)
  unfold State.drawSkid
  omega

theorem State.WellKept.armTrap (h : s.WellKept) (t : Trap) : (s.armTrap t).WellKept := by
  cases t with
  | oscillatorFail => exact h.congr rfl rfl rfl rfl rfl rfl rfl rfl rfl rfl rfl rfl rfl rfl rfl rfl
  | addressError => exact h.congr rfl rfl rfl rfl rfl rfl rfl rfl rfl rfl rfl rfl rfl rfl rfl rfl
  | stackError => exact h.setSkid (drawSkid_le s) h.skidMath_le
  | mathError => exact h.setSkid h.skidStack_le (drawSkid_le s)

theorem State.WellKept.requestTrap (h : s.WellKept) (t : Trap) : (s.requestTrap t).WellKept := by
  unfold State.requestTrap
  split
  · exact h
  · exact (h.setTrapFlag t).armTrap t

theorem State.WellKept.postTrap (h : s.WellKept) (t : Trap) : (s.postTrap t).WellKept := by
  unfold State.postTrap
  split
  · split
    · exact h.setCf.requestTrap t
    · exact h.requestTrap t
  · exact h

theorem State.WellKept.postTraps (h : s.WellKept) : s.postTraps.WellKept :=
  (((h.postTrap _).postTrap _).postTrap _).postTrap _

theorem State.WellKept.events (h : s.WellKept) (n : Nat) : (s.events n).WellKept := by
  unfold State.events
  refine foldl_wellKept (fun _ ht c => ht.cycleEvents c) _ _ (State.WellKept.postTraps ?_)
  split <;> exact h.congr rfl rfl rfl rfl rfl rfl rfl rfl rfl rfl rfl rfl rfl rfl rfl rfl

theorem State.WellKept.count (h : s.WellKept) (n : Nat) : (s.count n).WellKept := by
  unfold State.count
  split
  · exact h.congr rfl rfl rfl rfl rfl rfl rfl rfl rfl rfl rfl rfl rfl rfl rfl rfl
  · refine (h.setDisi (x := if s.disicnt.toNat ≤ n then setBit s.intcon2 14 false else s.intcon2)
      (c := BitVec.ofNat 14 (s.disicnt.toNat - n)) ?_ ?_).congr rfl rfl rfl rfl rfl rfl rfl rfl rfl rfl rfl rfl rfl rfl rfl rfl
    · split
      · exact setBit_impl (by simp) h.intcon2_impl
      · exact h.intcon2_impl
    · split
      · simp
      · next hc =>
        intro _ h0
        have := congrArg BitVec.toNat h0
        have hlt := s.disicnt.isLt
        rw [BitVec.toNat_ofNat, Nat.mod_eq_of_lt (by omega)] at this
        have h00 : (0 : BitVec 14).toNat = 0 := rfl
        omega

theorem State.WellKept.enterSlot (h : s.WellKept) (src : Source) : (s.enterSlot src).WellKept :=
  ((h.beginEntry.enter src).events 4).count 4

theorem arbitrate_wellKept : ∀ (n : Nat) {s : State}, s.WellKept → (s.arbitrate n).WellKept
  | 0, _, h => h
  | n + 1, s, h => by
    unfold State.arbitrate
    split
    · exact h
    · split
      · exact arbitrate_wellKept n (h.enterSlot _)
      · exact h.enterSlot _

end Sys2Proof.Machine
end

