-- ==== Sys2Proof/Laws/External.lean ====
section
/-!
SUPPORT. What performing an answer of CPU_STEP can do: each action by its lemma, and the invariant it keeps.
-/

namespace Sys2Proof.Machine

/-! ## Small lemmas -/

@[simp] theorem checkAddr_plain (s : State) (a : DataAddr) : s.checkAddr (.plain a) = s := rfl

@[simp] theorem performAll_nil (s : State) : s.performAll [] = .ok s := rfl

theorem performAll_cons (s : State) (x : CpuAction) (rest : List CpuAction) {t : State}
    (h : s.performAll (x :: rest) = .ok t) : ∃ u, s.perform x = .ok u ∧ u.performAll rest = .ok t := by
  unfold State.performAll at h
  split at h
  · next u hu => exact ⟨u, hu, h⟩
  · cases h

/-- What every action keeps, all the actions keep. -/
theorem performAll_keeps {P : State → State → Prop} (refl : ∀ s, P s s) (trans : ∀ s t u, P s t → P t u → P s u)
    (one : ∀ s x t, s.perform x = .ok t → P s t) :
    ∀ (l : List CpuAction) (s t : State), s.performAll l = .ok t → P s t
  | [], s, t, h => by cases h; exact refl s
  | x :: rest, s, t, h => by
    obtain ⟨u, hu, ht⟩ := performAll_cons s x rest h
    exact trans s u t (one s x u hu) (performAll_keeps refl trans one rest u t ht)

/-- An answer that completes: its actions were performed from `beginAnswer`, and the cycles are those it reports. -/
theorem runAnswer_ok {s t : State} {a : CpuAnswer} (h : s.runAnswer a = .ok t) :
    ∃ u, (s.beginAnswer a).performAll a.actions = .ok u ∧ t = u.took (a.extraCycles + 1) := by
  unfold State.runAnswer at h
  split at h
  · next u hu => cases h; exact ⟨u, hu, rfl⟩
  · cases h

/-! ## The invariant -/

variable {s : State}

/-- An address made of bits 22:1 and a clear bit 0 is even. -/
theorem append_zero_even (t : BitVec 22) : (t ++ 0#1 : ProgAddr).getLsbD 0 = false := by
  rw [BitVec.getLsbD_append]; rfl

theorem State.WellKept.checkAddr (h : s.WellKept) (a : CpuAddr) : (s.checkAddr a).WellKept := by
  cases a with
  | plain a => exact h
  | viaW15 n => exact (h.checkStackEA _).raiseIf _ _

theorem State.WellKept.perform (h : s.WellKept) {x : CpuAction} {t : State} (e : s.perform x = .ok t) : t.WellKept := by
  cases x with
  | setW n v => cases e; exact h.setW n v
  | moveW15 n => cases e; exact (h.raiseIf _ _).setW _ _
  | setFlags v => cases e; exact h.swrite _ _
  | setRepeat b => cases e; exact h.setSr (setBit_impl (fun _ => by rw [implMask_sr]; rfl) h.sr_impl)
  | setPsv b =>
    cases e
    split
    · exact h
    · exact h.swrite _ _
  | readWord a => cases e; exact (h.checkAddr a).readWord _
  | readByte a => cases e; exact (h.checkAddr a).readByte _
  | writeWord a v => exact (h.checkAddr a).storeWord e
  | writeByte a b => exact (h.checkAddr a).writeByte e
  | indirectBit a => cases e; exact (h.checkAddr a).raiseIf _ _
  | divide d => cases e; exact h.raiseIf _ _
  | orIplIntoSrl =>
    cases e
    split
    · exact h
    · exact (h.storeSfr _ _).noteWrite _ _
  | jumpLiteral t => cases e; exact h.jump (append_zero_even t)
  | setPc t => cases e; exact h.setPc (append_zero_even t)

/-- The actions of a CPU_STEP keep the invariant, whatever it answers. -/
theorem State.WellKept.runAnswer (h : s.WellKept) {a : CpuAnswer} {t : State} (e : s.runAnswer a = .ok t) :
    t.WellKept := by
  obtain ⟨u, hu, rfl⟩ := runAnswer_ok e
  refine State.WellKept.took ?_ _
  refine performAll_keeps (P := fun s t => s.WellKept → t.WellKept) (fun _ h => h) (fun _ _ _ f g h => g (f h))
    (fun _ _ _ e h => h.perform e) _ _ _ hu ?_
  have hp : (s.pc + BitVec.ofNat 23 (if a.twoWords then 4 else 2)).getLsbD 0 = false := by
    cases a.twoWords
    · exact pc_add_two_even h.pc_even
    · rw [if_pos rfl, show s.pc + BitVec.ofNat 23 4 = s.pc + 2 + 2 by bv_omega]
      exact pc_add_two_even (pc_add_two_even h.pc_even)
  exact (h.begin.advanceBy hp).congr rfl rfl rfl rfl rfl rfl rfl rfl rfl rfl rfl rfl rfl rfl rfl rfl

end Sys2Proof.Machine
end

