-- ==== Sys2Proof/Laws/PerInstr.lean ====
section
/-!
SUPPORT. The family EncodeLength, one lemma for each constructor of Instr: how many words an instruction has, and that its first
word says so (spec/30_encoding.md R101).
-/

namespace Sys2Proof.Laws

/-- R101: the encoding of GOTO has two words and that of every other instruction one, and the first word tells which. -/
def EncodeLength.Statement (i : Instr) : Prop :=
  ∃ w rest, encode i = w :: rest ∧ rest.length = (if isTwoWord w then 1 else 0) ∧
    (isTwoWord w = true ↔ ∃ t, i = .goto t)

/-- A word that has a bit where 0x04 in the top byte has none is no first word of two. -/
theorem not_two_of_bit {w : ProgWord} {b : Nat} (hb : 16 ≤ b ∧ b < 24 ∧ b ≠ 18) (h : w.getLsbD b = true) :
    isTwoWord w = false := by
  simp only [isTwoWord, decide_eq_false_iff_not]
  rintro ⟨h1, -⟩
  have h2 := congrArg (fun x => x.getLsbD (b - 16)) h1
  rw [BitVec.getLsbD_extractLsb'] at h2
  obtain rfl | rfl | rfl | rfl | rfl | rfl | rfl : b = 16 ∨ b = 17 ∨ b = 19 ∨ b = 20 ∨ b = 21 ∨ b = 22 ∨ b = 23 := by
    omega
  all_goals exact absurd (h2.symm.trans (by simpa using h)) (by decide)

/-- The first word of GOTO (R102). -/
theorem isTwoWord_goto (t : ProgAddr) : isTwoWord (0x04#8 ++ t.extractLsb' 1 15 ++ 0#1) = true := by
  simp only [isTwoWord, decide_eq_true_eq]
  constructor
  · exact BitVec.eq_of_getLsbD_eq (fun i hi => by
      simp only [BitVec.getLsbD_extractLsb', BitVec.getLsbD_append, hi, decide_true, Bool.true_and]
      simp)
  · exact BitVec.eq_of_getLsbD_eq (fun i hi => by
      obtain rfl : i = 0 := by omega
      simp only [BitVec.getLsbD_extractLsb', BitVec.getLsbD_append]
      rfl)

/-- A one-word encoding whose top byte is not 0x04 or whose bit 0 is set. -/
theorem EncodeLength.of_one_word {i : Instr} {w : ProgWord} (h : encode i = [w]) (hw : isTwoWord w = false)
    (hi : ∀ t, i ≠ .goto t) : EncodeLength.Statement i :=
  ⟨w, [], h, by simp [hw], by simp [hw, hi]⟩

theorem EncodeLength.disi (k : BitVec 14) : EncodeLength.Statement (.disi k) := by
  refine EncodeLength.of_one_word rfl ?_ (by simp)
  exact not_two_of_bit (b := 23) (by decide) (by simp only [BitVec.getLsbD_append]; rfl)

theorem EncodeLength.retfie : EncodeLength.Statement .retfie := by
  refine EncodeLength.of_one_word rfl ?_ (by simp)
  decide

theorem EncodeLength.goto (t : ProgAddr) : EncodeLength.Statement (.goto t) := by
  refine ⟨_, _, rfl, ?_, ?_⟩ <;> simp [isTwoWord_goto]

theorem EncodeLength.bra (n : BitVec 16) : EncodeLength.Statement (.bra n) := by
  refine EncodeLength.of_one_word rfl ?_ (by simp)
  exact not_two_of_bit (b := 20) (by decide) (by simp only [BitVec.getLsbD_append]; rfl)

theorem EncodeLength.ret : EncodeLength.Statement .ret := by
  refine EncodeLength.of_one_word rfl ?_ (by simp)
  decide

theorem EncodeLength.reset : EncodeLength.Statement .reset := by
  refine EncodeLength.of_one_word rfl ?_ (by simp)
  decide

theorem EncodeLength.pwrsav (k : BitVec 1) : EncodeLength.Statement (.pwrsav k) := by
  refine EncodeLength.of_one_word rfl ?_ (by simp)
  exact not_two_of_bit (b := 23) (by decide) (by simp only [BitVec.getLsbD_append]; rfl)

theorem EncodeLength.push (f : DataAddr) : EncodeLength.Statement (.push f) := by
  refine EncodeLength.of_one_word rfl ?_ (by simp)
  exact not_two_of_bit (b := 23) (by decide) (by simp only [BitVec.getLsbD_append]; rfl)

theorem EncodeLength.pop (f : DataAddr) : EncodeLength.Statement (.pop f) := by
  refine EncodeLength.of_one_word rfl ?_ (by simp)
  exact not_two_of_bit (b := 23) (by decide) (by simp only [BitVec.getLsbD_append]; rfl)

theorem EncodeLength.nop : EncodeLength.Statement .nop := by
  refine EncodeLength.of_one_word rfl ?_ (by simp)
  decide

theorem EncodeLength.movLit (k : Word) (d : WReg) : EncodeLength.Statement (.movLit k d) := by
  refine EncodeLength.of_one_word rfl ?_ (by simp)
  exact not_two_of_bit (b := 21) (by decide) (by simp only [BitVec.getLsbD_append]; rfl)

theorem EncodeLength.movToFile (n : WReg) (f : DataAddr) : EncodeLength.Statement (.movToFile n f) := by
  refine EncodeLength.of_one_word rfl ?_ (by simp)
  exact not_two_of_bit (b := 23) (by decide) (by simp only [BitVec.getLsbD_append]; rfl)

theorem EncodeLength.movFromFile (f : DataAddr) (d : WReg) : EncodeLength.Statement (.movFromFile f d) := by
  refine EncodeLength.of_one_word rfl ?_ (by simp)
  exact not_two_of_bit (b := 23) (by decide) (by simp only [BitVec.getLsbD_append]; rfl)

theorem EncodeLength.bset (f : BitVec 13) (b : BitVec 4) : EncodeLength.Statement (.bset f b) := by
  refine EncodeLength.of_one_word rfl ?_ (by simp)
  exact not_two_of_bit (b := 23) (by decide) (by simp only [BitVec.getLsbD_append]; rfl)

theorem EncodeLength.bclr (f : BitVec 13) (b : BitVec 4) : EncodeLength.Statement (.bclr f b) := by
  refine EncodeLength.of_one_word rfl ?_ (by simp)
  exact not_two_of_bit (b := 23) (by decide) (by simp only [BitVec.getLsbD_append]; rfl)

theorem EncodeLength.iorLit (k : BitVec 10) (n : WReg) : EncodeLength.Statement (.iorLit k n) := by
  refine EncodeLength.of_one_word rfl ?_ (by simp)
  exact not_two_of_bit (b := 23) (by decide) (by simp only [BitVec.getLsbD_append]; rfl)

theorem EncodeLength.movInd (n d : WReg) : EncodeLength.Statement (.movInd n d) := by
  refine EncodeLength.of_one_word rfl ?_ (by simp)
  exact not_two_of_bit (b := 22) (by decide) (by simp only [BitVec.getLsbD_append]; rfl)

end Sys2Proof.Laws
end

