-- ==== Sys2Proof/Tests/Slice0.lean ====
section
/-!
SUPPORT. The model's own tests: ill-formed terms that the check refuses, words written out from the encodings of the spec, single
steps whose results the spec's examples and vectors state, and a witness for the hypotheses of every obligation.
-/

namespace Sys2Proof.Tests

open Sys2Proof.Machine

-- the many small kernel evaluations of this file run one after another, so that they need no thread each
set_option Elab.async false

/-! ## Helpers -/

/-- The device of spec/95_test_vectors.md part 3, with the OPEN parameters at one value each. -/
def dev : Device :=
  { Device.generic with fscmEnabled := true, swTrapflagSetTraps := false, preemptBeforeFirst := false }

/-- The machine after reset on that device. -/
def m0 : State := { State.reset with cfg := dev }

/-- The outcome is a next state with the property. -/
def goes (o : Host.Outcome State Fault Refusal) (p : State → Bool) : Bool :=
  match o with
  | .next t => p t
  | _ => false

/-- The outcome is this refusal. -/
def refuses (o : Host.Outcome State Fault Refusal) (r : Refusal) : Bool :=
  match o with
  | .refused q => q == r
  | _ => false

/-- The state with W[n] = v. -/
def withW (s : State) (n : WReg) (v : Word) : State := s.putW n v

/-- The state with a data word stored. -/
def withRam (s : State) (a : DataAddr) (v : Word) : State := s.putRamWord a v

/-- The state with vector v flagged and enabled. -/
def pending (s : State) (ifs iec ipc : Word) : State :=
  { s with ifs := s.ifs.set 0 ifs, iec := s.iec.set 0 iec, ipc := s.ipc.set 0 ipc }

/-- The state with the instruction bits `w` at PC. -/
def fetching (w : Nat) : State := m0.withFetchWord 48 w

theorem ramAt_intro {s : State} {a : DataAddr}
    (h : (!a.getLsbD 0 && s.cfg.dataImplemented a && (s.cfg.sfrAt a).isNone) = true) : s.RamAt a := by
  simp only [Bool.and_eq_true, Bool.not_eq_true', Option.isNone_iff_eq_none] at h
  exact ⟨h.1.1, h.1.2, h.2⟩

theorem sfrIs_intro {s : State} {a : DataAddr} {r : Sfr}
    (h : (!a.getLsbD 0 && s.cfg.dataImplemented a && (s.cfg.sfrAt a == some r)) = true) : s.SfrIs a r := by
  simp only [Bool.and_eq_true, Bool.not_eq_true', beq_iff_eq] at h
  exact ⟨h.1.1, h.1.2, h.2⟩

theorem fetches_intro {s : State} (hi : s.inputs = [])
    (h : (s.executes && !s.pc.getLsbD 0 && s.pcImplemented) = true) : s.Fetches := by
  simp only [Bool.and_eq_true, Bool.not_eq_true'] at h
  exact ⟨by simp [State.SlotNext, hi], h.1.1, h.1.2, h.2⟩

/-! ## Well-formedness: a term for each check, which the check refuses -/

theorem test_wf_goto : (Instr.goto 0x000201).wellFormed = false := by decide
theorem test_wf_push : (Instr.push 0x0801).wellFormed = false := by decide
theorem test_wf_pop : (Instr.pop 0x0043).wellFormed = false := by decide
theorem test_wf_movToFile : (Instr.movToFile 0 0x0081).wellFormed = false := by decide
theorem test_wf_movFromFile : (Instr.movFromFile 0xFFFF 3).wellFormed = false := by decide
theorem test_wf_bset : (Instr.bset 0x1FFF 0).wellFormed = false := by decide
theorem test_wf_bclr : (Instr.bclr 0x0001 15).wellFormed = false := by decide

/-! ## Decoding: words written out bit by bit from spec/30_encoding.md R102 to R105 and section 6 -/

theorem test_decode_disi : decodeWords [0b111111000011111111111111#24] = .ok (.disi 16383, []) := by decide
theorem test_decode_retfie : decodeWords [0b000001100100000000000000#24] = .ok (.retfie, []) := by decide
theorem test_decode_goto :
    decodeWords [0b000001000010001101000110#24, 0b000000000000000000000001#24] = .ok (.goto 0x012346, []) := by decide
theorem test_decode_bra : decodeWords [0b001101110000000000000010#24] = .ok (.bra 2, []) := by decide
theorem test_decode_return : decodeWords [0b000001100000000000000000#24] = .ok (.ret, []) := by decide
theorem test_decode_reset : decodeWords [0b111111100000000000000000#24] = .ok (.reset, []) := by decide
theorem test_decode_pwrsav : decodeWords [0b111111100100000000000001#24] = .ok (.pwrsav 1, []) := by decide
theorem test_decode_push : decodeWords [0b111110000000000001000010#24] = .ok (.push 0x0042, []) := by decide
theorem test_decode_pop : decodeWords [0b111110010000000001000010#24] = .ok (.pop 0x0042, []) := by decide
theorem test_decode_nop : decodeWords [0b000000001010010111000011#24] = .ok (.nop, []) := by decide
theorem test_decode_movLit : decodeWords [0b001000000000111000000001#24] = .ok (.movLit 0x00E0 1, []) := by decide
theorem test_decode_movToFile : decodeWords [0b100010000000010100100011#24] = .ok (.movToFile 3 0x00A4, []) := by decide
theorem test_decode_movFromFile : decodeWords [0b100000000000001000010101#24] = .ok (.movFromFile 0x0042 5, []) := by
  decide
theorem test_decode_bset : decodeWords [0b101010001110000010000001#24] = .ok (.bset 0x0080 15, []) := by decide
theorem test_decode_bclr : decodeWords [0b101010010110000010000100#24] = .ok (.bclr 0x0084 3, []) := by decide
theorem test_decode_iorLit : decodeWords [0b101100110000111000000010#24] = .ok (.iorLit 0xE0 2, []) := by decide
theorem test_decode_movInd : decodeWords [0b011110000000000100010010#24] = .ok (.movInd 2 2, []) := by decide
/-- R107, U15, U16: words that no row holds: IOR in byte mode, PUSH at an odd address, a call; a GOTO with a bad second word. -/
theorem test_decode_reserved : decode 0xB34E00 0 = .error .unknownWord ∧ decode 0xF80043 0 = .error .unknownWord ∧
    decode 0x020200 0 = .error .unknownWord ∧ decode 0x040200 0x000080 = .error .gotoSecondWord := by decide
theorem test_decodeTable_goto : decodeTableWord 48 0x000001042346 = some (.goto 0x012346) ∧
    decodeTableWord 24 0x000001042346 = some (.goto 0x002346) := by decide

/-! ## One step: the examples of spec/40 and spec/41 and the vectors of spec/95 -/

/-- R120's example: DISI #2 at 0x000206. -/
theorem test_disi_loads : goes (exec (.disi 2) { m0 with pc := 0x000206 }) (fun t =>
    t.disicnt == 2 && t.intcon2 == 0x4000 && t.pc == 0x000208 && t.slot.cycles == 1) = true := by decide +kernel
/-- V18: DISI #0 masks only the arbitration of its own slot. -/
theorem test_disi_zero : goes (step (fetching 0xFC0000)) (fun t =>
    t.disicnt == 0 && !t.disiBit && t.slot.masked && t.pc == 2) = true := by decide +kernel
/-- V21, slot s2: GOTO with DISICNT = 2 in a window is masked to its end; V22: with DISICNT = 1 it is not. -/
theorem test_disicnt_straddle :
    goes (step { fetching 0x040200 with disicnt := 2, intcon2 := 0x4000 }) (fun t =>
      t.disicnt == 0 && !t.disiBit && t.slot.masked) = true ∧
    goes (step { fetching 0x040200 with disicnt := 1, intcon2 := 0x4000 }) (fun t =>
      t.disicnt == 0 && !t.disiBit && !t.slot.masked) = true := by decide +kernel
/-- V33: RETFIE with every field non-trivial. -/
theorem test_retfie_frame :
    goes (exec .retfie (withRam (withRam (withW { m0 with sr := 0x0100, corcon := 0x0004 } 15 0x0904) 0x0902 0xE583) 0x0900
      0x2347)) (fun t => t.getW 15 == 0x0900 && t.sr == 0x01E5 && t.corcon == 0x000C && t.cpuPri == 15 && t.pc == 0x032346 &&
        t.slot.cycles == 3 && t.slot.raised == .none) = true := by decide +kernel
/-- R126's example. -/
theorem test_retfie_example :
    goes (exec .retfie (withRam (withRam (withW m0 15 0x0804) 0x0802 0x8003) 0x0800 0x2346)) (fun t =>
      t.srl == 0x80 && !t.ipl3 && t.pc == 0x032346 && t.getW 15 == 0x0800) = true := by decide +kernel
/-- R140's example. -/
theorem test_goto_step : goes (step (fetching 0x000000040200)) (fun t => t.pc == 0x000200 && t.slot.cycles == 2) = true := by
  decide +kernel
/-- V46: GOTO to an unimplemented address raises the trap, and its target is the stacked PC. -/
theorem test_goto_unimplemented :
    goes (step { (fetching 0x00007F04FFFE) with ipc := m0.ipc }) (fun t =>
      t.ramWord 0x0800 == 0xFFFE && t.ramWord 0x0802 == 0x007F && t.intcon1 == 0x0008 && t.cpuPri == 13) = true := by
  decide +kernel
/-- R141's examples: BRA to itself, and a forward branch. -/
theorem test_bra : goes (exec (.bra 0xFFFF) { m0 with pc := 0x00020C }) (fun t => t.pc == 0x00020C) = true ∧
    goes (exec (.bra 3) { m0 with pc := 0x000200 }) (fun t => t.pc == 0x000208 && t.slot.cycles == 2) = true := by
  decide +kernel
/-- R142's example. -/
theorem test_return : goes (exec .ret (withRam (withRam (withW m0 15 0x0804) 0x0802 0x0000) 0x0800 0x0300)) (fun t =>
    t.pc == 0x000300 && t.getW 15 == 0x0800 && t.sr == 0 && t.slot.cycles == 3) = true := by decide +kernel
/-- V47: RETURN to an unimplemented address raises nothing; the next slot does, and stacks that address + 2. -/
theorem test_unimplemented_slot : goes (step { m0 with pc := 0x012000 }) (fun t =>
    t.ramWord 0x0800 == 0x2002 && t.ramWord 0x0802 == 0x0001 && t.trapFlag .addressError && t.getW 15 == 0x0804) = true := by
  decide +kernel
/-- R21, U20: a NOP at 0x7FFFFE runs past the top of program memory, and the next slot raises AddressError, though a program stands at
0x000000; a NOP at 0x7FFFFC does not. -/
theorem test_past_top :
    (let s := { m0 with pc := 0x7FFFFE, prog := [(0, 0xFC0002), (0x7FFFFC, 0), (0x7FFFFE, 0)],
                        cfg := { dev with progImpl := [(0, 0x7FFFFF)] } }
     goes (step s) (fun t => t.pc == 0 && t.pcBeyond && t.noStall && t.intcon1 == 0 && goes (step t) (fun u =>
      u.trapFlag .addressError && u.ramWord 0x0800 == 0x0002 && u.cpuPri == 13 && u.disicnt == 0 && !u.pcBeyond)) &&
     goes (step { s with pc := 0x7FFFFC }) (fun t => t.pc == 0x7FFFFE && !t.pcBeyond)) = true := by decide +kernel
/-- R143's example; TRAPR is kept (R243). -/
theorem test_reset : goes (step { (fetching 0xFE0000) with sr := 0x00E0, iec := m0.iec.set 0 1, trapr := true }) (fun t =>
    t.pc == 0 && t.sr == 0 && t.iec[0] == 0 && t.ipc[0] == 0x4444 && t.ipc[29] == 0x0044 && t.trapr) = true := by
  decide +kernel
/-- R144's example. -/
theorem test_pwrsav : goes (exec (.pwrsav 0) { m0 with pc := 0x000206 }) (fun t => t.pc == 0x000208 && t.mode == .sleep) = true ∧
    goes (exec (.pwrsav 1) { m0 with pc := 0x000206 }) (fun t => t.mode == .idle) = true := by decide +kernel
/-- V53: with a flagged and enabled source the mode is left in the slot that enters it, and the source is entered. -/
theorem test_pwrsav_wakes_at_once : goes (step (pending (fetching 0xFE4001) 2 2 0x4444)) (fun t =>
    t.mode == .run && t.ramWord 0x0800 == 0x0002 && t.ipl == 4) = true := by decide +kernel
/-- R145's example: PUSH SR. -/
theorem test_push_sr : goes (exec (.push 0x0042) { m0 with sr := 0x0061 }) (fun t =>
    t.ramWord 0x0800 == 0x0061 && t.getW 15 == 0x0802 && t.slot.raised == .none) = true := by decide +kernel
/-- V38 and V39: a push at SPLIM is allowed, one above it raises the stack error and is made. -/
theorem test_push_limit :
    goes (exec (.push 0x0042) (withW { m0 with splim := 0x0900, splimEn := true } 15 0x0900)) (fun t =>
      t.slot.raised == .none && t.getW 15 == 0x0902) = true ∧
    goes (exec (.push 0x0042) (withW { m0 with sr := 0x0061, splim := 0x0900, splimEn := true } 15 0x0902)) (fun t =>
      t.slot.raised.stk && t.ramWord 0x0902 == 0x0061) = true := by decide +kernel
/-- R146's example: POP SR. -/
theorem test_pop_sr : goes (exec (.pop 0x0042) (withRam (withW m0 15 0x0802) 0x0800 0x0061)) (fun t =>
    t.sr == 0x0061 && t.getW 15 == 0x0800 && t.slot.raised == .none) = true := by decide +kernel
/-- V37: a pop below 0x0800 raises the stack error and delivers the value. -/
theorem test_pop_underflow : goes (exec (.pop 0x0900) (withRam m0 0x07FE 0x1234)) (fun t =>
    t.getW 15 == 0x07FE && t.slot.raised.stk && t.ramWord 0x0900 == 0x1234) = true := by decide +kernel
/-- R147's example. -/
theorem test_nop : goes (exec .nop { m0 with pc := 0x000208 }) (fun t => t.pc == 0x00020A) = true := by decide +kernel
/-- R152's example, and R186: a literal below 0x0800 in W15. -/
theorem test_movLit : goes (step (fetching 0x244450)) (fun t => t.getW 0 == 0x4445 && t.pc == 2) = true ∧
    goes (exec (.movLit 0x07FF 15) m0) (fun t => t.getW 15 == 0x07FE && t.slot.raised.stk) = true := by decide +kernel
/-- R153's example. -/
theorem test_movToFile_ipc : goes (step (withW (fetching 0x880520) 0 0x4445)) (fun t => t.ipc[0] == 0x4445) = true := by
  decide +kernel
/-- V3: 0xFFFF written to SR, CORCON, INTCON1, INTCON2, IFS7, IPC0, IPC29 and DISICNT. -/
theorem test_movToFile_masks :
    let st := withW m0 0 0xFFFF
    (goes (exec (.movToFile 0 0x0042) st) (fun t => t.sr == 0x01EF) &&
     goes (exec (.movToFile 0 0x0044) st) (fun t => t.corcon == 0x0004) &&
     goes (exec (.movToFile 0 0x0080) st) (fun t => t.intcon1 == 0x8000 && t.slot.raised == .none) &&
     goes (exec (.movToFile 0 0x0082) st) (fun t => t.intcon2 == 0x801F) &&
     goes (exec (.movToFile 0 0x0092) st) (fun t => t.ifs[7] == 0x003F) &&
     goes (exec (.movToFile 0 0x00A4) st) (fun t => t.ipc[0] == 0x7777) &&
     goes (exec (.movToFile 0 0x00DE) st) (fun t => t.ipc[29] == 0x0077) &&
     goes (exec (.movToFile 0 0x0052) st) (fun t => t.disicnt == 0x3FFF && !t.disiBit)) = true := by decide +kernel
/-- R154's example. -/
theorem test_movFromFile_sr : goes (exec (.movFromFile 0x0042 0) { m0 with sr := 0x0061 }) (fun t =>
    t.getW 0 == 0x0061) = true := by decide +kernel
/-- R155's examples. -/
theorem test_bset : goes (step (fetching 0xA80094)) (fun t => t.iec[0] == 0x0001) = true ∧
    goes (exec (.bset 0x0080 15) m0) (fun t => t.intcon1 == 0x8000) = true := by decide +kernel
/-- R156's example, and V6: BCLR INTCON1, #3 withdraws the trap. -/
theorem test_bclr : goes (exec (.bclr 0x0084 0) { m0 with ifs := m0.ifs.set 0 0x0003 }) (fun t => t.ifs[0] == 0x0002) = true ∧
    goes (exec (.bclr 0x0080 3) { m0 with intcon1 := 0x0008 }) (fun t => t.intcon1 == 0x0000) = true := by decide +kernel
/-- U14: a bit of SPLIM. R46: RCON<15> is cleared by BCLR, and any other use of RCON is refused. -/
theorem test_refused_writes : refuses (exec (.bset 0x0020 3) m0) .splimByteWrite = true ∧
    goes (exec (.bclr 0x0740 15) { m0 with trapr := true }) (fun t => !t.trapr && t.pc == 2) = true ∧
    refuses (exec (.bset 0x0740 15) m0) .rconOtherUse = true ∧ refuses (exec (.bclr 0x0740 9) m0) .rconOtherUse = true ∧
    refuses (exec (.movToFile 0 0x0740) (withW m0 0 0x8000)) .rconOtherUse = true := by decide +kernel
/-- R243: a software write of 0 to RCON<15>, a word by MOV and a byte by a CPU_STEP, clears TRAPR. -/
theorem test_trapr_cleared_by_zero :
    goes (exec (.movToFile 0 0x0740) (withW { m0 with trapr := true } 0 0x7FFF)) (fun t => !t.trapr && t.pc == 2) = true ∧
    (match State.runAnswer { m0 with trapr := true } ⟨false, 0, [.writeByte (.plain 0x0741) 0]⟩ with
     | .ok t => !t.trapr
     | .error _ => false) = true := by decide +kernel

/-- R57, R199: BSET of a clear trap flag raises that trap exactly when SW_TRAPFLAG_SET_TRAPS. -/
theorem test_bset_trap_flag :
    goes (exec (.bset 0x0080 4) { m0 with cfg := { dev with swTrapflagSetTraps := true } }) (fun t =>
      t.intcon1 == 0x0010 && t.slot.raised == ⟨false, false, false, true⟩) = true ∧
    goes (exec (.bset 0x0080 4) m0) (fun t => t.intcon1 == 0 && t.slot.raised == .none) = true := by decide +kernel
/-- R157's example. -/
theorem test_iorLit : goes (exec (.iorLit 0xE0 0) (withW { m0 with sr := 0x010B } 0 0x0001)) (fun t =>
    t.getW 0 == 0x00E1 && t.sr == 0x0101) = true := by decide +kernel
/-- V44 and R158's example. -/
theorem test_movInd : goes (exec (.movInd 1 0) (withRam (withW m0 1 0x0900) 0x0900 0x1234)) (fun t =>
    t.getW 0 == 0x1234 && t.slot.raised == .none) = true := by decide +kernel
/-- P3: the misaligned read, its trap entered in the same slot. -/
theorem test_movInd_odd : goes (step (withW (fetching 0x780011) 1 0x0901)) (fun t =>
    t.intcon1 == 0x0008 && t.ramWord 0x0800 == 0x0002 && t.corcon == 0x0008 && t.sr == 0x00A0 && t.noStall) = true := by
  decide +kernel
/-- V27: an entry counts 4 cycles of DISICNT. R198: the entry of a hard trap takes it out of HARDSTALL. -/
theorem test_entry_cycles_and_stall :
    (let s := { m0 with disicnt := 10, intcon2 := 0x4000 }.enterSlot (.irq 0)
     s.disicnt == 6 && s.disiBit && s.slot.cycles == 5) = true ∧
    ({ m0 with stallAddr := true, intcon1 := 0x0008 }.enterSlot (.trap .addressError)).noStall = true := by decide +kernel
/-- V29: an interrupt entry with every saved field non-trivial. -/
theorem test_entry_interrupt :
    let s := { m0 with pc := 0x012346, sr := 0x0109, corcon := 0x0004, prog := [(0x28, 0x00ABCD)] }
    let st := withW (pending { s with ipc := m0.ipc.set 2 0x4344 } 0x0400 0x0400 0x4444) 15 0x0900
    (st.select == some (.irq 10) && (st.enterSlot (.irq 10)).ramWord 0x0900 == 0x2346 &&
      (st.enterSlot (.irq 10)).ramWord 0x0902 == 0x0901 && (st.enterSlot (.irq 10)).sr == 0x0169 &&
      (st.enterSlot (.irq 10)).pc == 0x00ABCC && (st.enterSlot (.irq 10)).ifs[0] == 0x0400) = true := by decide +kernel
/-- V32: a trap entry from an interrupt handler. -/
theorem test_entry_trap :
    let st := withW { m0 with pc := 0x000302, sr := 0x00A1, intcon1 := 0x0010 } 15 0x0804
    (st.select == some (.trap .mathError) && (st.enterSlot (.trap .mathError)).ramWord 0x0806 == 0xA100 &&
      (st.enterSlot (.trap .mathError)).sr == 0x0061 && (st.enterSlot (.trap .mathError)).cpuPri == 11) = true := by
  decide +kernel
/-- V8, V9, V10, V13, V15: what the arbitration selects. -/
theorem test_select :
    ((pending m0 6 6 0x4544).select == some (.irq 2) && (pending { m0 with sr := 0x0080 } 6 6 0x4444).select == none &&
      (pending m0 1 1 0x4440).select == none &&
      (pending { m0 with slot := { m0.slot with masked := true } } 3 3 0x4476).select == some (.irq 1) &&
      (pending { m0 with intcon1 := 0x0004 } 1 1 0x4447).select == some (.trap .stackError)) = true := by decide +kernel
/-- V30: the hard trap conflict. -/
theorem test_conflict : goes (step (withW { (fetching 0x780011) with sr := 0x00C0, corcon := 0x0008 } 1 0x0901)) (fun t =>
    t.pc == 0 && t.trapr && t.sr == 0 && t.corcon == 0 && t.intcon1 == 0 && t.getW 1 == 0 && t.noStall) = true := by
  decide +kernel
/-- V50: a source of the CPU's own priority wakes it and is not entered. -/
theorem test_wake_without_entry :
    goes (step (pending { m0 with pc := 0x208, sr := 0x0080, mode := .idle, inputs := [.cycle ⟨[1], 0, false⟩] } 0 2 0x4444))
      (fun t => t.mode == .run && t.pc == 0x208 && t.ifs[0] == 2) = true := by decide +kernel
/-- V55 to V58: the edge of INT0. -/
theorem test_edges :
    ((m0.cycleEvents ⟨[], 1, false⟩).ifs[0] == 1 && ({ m0 with pinprev := 1 }.cycleEvents ⟨[], 0, false⟩).ifs[0] == 0 &&
      ({ m0 with pinprev := 1, intcon2 := 1 }.cycleEvents ⟨[], 0, false⟩).ifs[0] == 1 &&
      ({ m0 with intcon2 := 1 }.cycleEvents ⟨[], 1, false⟩).ifs[0] == 0) = true := by decide +kernel
/-- R56, R91 with hwSetLast false: a written 0 stands against the hardware set and withdraws the trap, with nothing left waiting;
a written 1 does not hinder it. -/
theorem test_race :
    (let s := { m0 with cfg := { dev with hwSetLast := false } }.raise .addressError
     let a := (s.noteWrite .intcon1 0x0008).postTraps
     let b := (s.noteWrite .intcon1 0xFFF7).postTraps
     !a.trapFlag .addressError && a.noStall && b.trapFlag .addressError && b.stallAddr) = true := by decide +kernel
/-- R51, R198: a clock failure in the cycles of an interrupt's entry is entered in the same slot, PREEMPT_BEFORE_FIRST or not. -/
theorem test_hard_trap_in_entry :
    (let s := pending { m0 with inputs := [.cycle ⟨[], 0, true⟩] } 2 2 0x4444
     let t := s.arbitrate 16
     t.noStall && t.cpuPri == 14 && t.getW 15 == 0x0808 && t.cf) = true := by decide +kernel
/-- R148, R149, R195: a division by zero, and an odd indirect bit address with its byte write inhibited, by a CPU_STEP's answer. -/
theorem test_external :
    (match m0.runAnswer ⟨false, 17, [.divide 0, .setW 0 0x1234]⟩ with
     | .ok t => t.slot.raised.math && t.getW 0 == 0x1234 && t.slot.cycles == 18 && t.pc == 2
     | .error _ => false) = true ∧
    (match m0.runAnswer ⟨false, 0, [.indirectBit (.plain 0x0901), .writeByte (.plain 0x0902) 1]⟩ with
     | .ok t => t.slot.raised.addr && t.mem == []
     | .error _ => false) = true := by decide +kernel

/-! ## Witnesses: a concrete state that meets the hypotheses of each obligation, one for each clause -/

/-- EncodeThenDecodeGivesInstruction. -/
theorem witness_wellFormed : (Instr.goto 0x7FFFFE).wellFormed = true ∧ (Instr.push 0xFFFE).wellFormed = true ∧
    (Instr.bset 0x1FFE 15).wellFormed = true ∧ (Instr.movToFile 15 0).wellFormed = true ∧
    (Instr.disi 0x3FFF).wellFormed = true := by decide

/-- DecodeThenEncodeGivesWords: one word, two words, and NOP with bits that are ignored. -/
theorem witness_decode : decode 0xFC3FFF 0 = .ok (.disi 0x3FFF) ∧ decode 0x04FFFE 0x00007F = .ok (.goto 0x7FFFFE) ∧
    decode 0x00FFFF 0 = .ok .nop := by decide

/-- StepRunsDecodedInstruction: an instruction that goes on, a two-word one at the end of program memory but one, and one that
is refused. -/
theorem witness_step_runs :
    ((fetching 0xFC0002).Fetches ∧ decode (fetching 0xFC0002).wordsAtPc.1 (fetching 0xFC0002).wordsAtPc.2 = .ok (.disi 2) ∧
      goes (exec (.disi 2) (fetching 0xFC0002)) (fun _ => true) = true) ∧
    (let s := { m0 with pc := 0x7FC }.withFetchWord 48 0x000001042346;
      s.Fetches ∧ s.cfg.progImplemented (s.pc + 2) = true ∧ decode s.wordsAtPc.1 s.wordsAtPc.2 = .ok (.goto 0x012346) ∧
      goes (exec (.goto 0x012346) s) (fun _ => true) = true) ∧
    ((fetching 0xA86020).Fetches ∧
      decode (fetching 0xA86020).wordsAtPc.1 (fetching 0xA86020).wordsAtPc.2 = .ok (.bset 0x0020 3) ∧
      refuses (exec (.bset 0x0020 3) (fetching 0xA86020)) .splimByteWrite = true) :=
  ⟨⟨fetches_intro rfl (by decide +kernel), by decide +kernel, by decide +kernel⟩,
    ⟨fetches_intro rfl (by decide +kernel), by decide +kernel, by decide +kernel, by decide +kernel⟩,
    fetches_intro rfl (by decide +kernel), by decide +kernel, by decide +kernel⟩

/-- StepRefusesUndecodableWord: both clauses. -/
theorem witness_step_refuses :
    ((fetching 0xFFFFFF).Fetches ∧
      decode (fetching 0xFFFFFF).wordsAtPc.1 (fetching 0xFFFFFF).wordsAtPc.2 = .error .unknownWord) ∧
    ((fetching 0x000080040200).Fetches ∧ (fetching 0x000080040200).cfg.progImplemented 2 = true ∧
      decode (fetching 0x000080040200).wordsAtPc.1 (fetching 0x000080040200).wordsAtPc.2 = .error .gotoSecondWord) :=
  ⟨⟨fetches_intro rfl (by decide +kernel), by decide +kernel⟩,
    fetches_intro rfl (by decide +kernel), by decide +kernel, by decide +kernel⟩

/-- UnimplementedPcRaisesAddressError: the first address past program memory, and a PC that ran past the top of the program space. -/
theorem witness_unimplemented_pc : ({ m0 with pc := 0x000800 } : State).SlotNext ∧
    ({ m0 with pc := 0x000800 } : State).executes = true ∧ (0x000800 : ProgAddr).getLsbD 0 = false ∧
    dev.progImplemented 0x000800 = false ∧ dev.progImplemented 0x0007FE = true ∧
    ({ m0 with pcBeyond := true } : State).SlotNext ∧ ({ m0 with pcBeyond := true } : State).executes = true :=
  ⟨by simp [State.SlotNext, m0, State.reset], by decide, by decide, by decide, by decide,
    by simp [State.SlotNext, m0, State.reset], by decide⟩

/-- The machine after reset, on the device of these tests, has the invariant. -/
theorem m0_inv : m0.Inv := by
  refine ⟨⟨?_, ?_, ?_, ?_, ?_, ?_, ?_, ?_, ?_, ?_, ?_, ?_, ?_, ?_, ?_⟩, ?_⟩ <;> decide +kernel

/-- StepKeepsInvariant, StepKeepsDeviceAndProgram. -/
theorem witness_invariant : (m0.withFetchWord 48 0xFC0002).Inv ∧ ∃ t, step (m0.withFetchWord 48 0xFC0002) = .next t := by
  refine ⟨⟨⟨?_, ?_, ?_, ?_, ?_, ?_, ?_, ?_, ?_, ?_, ?_, ?_, ?_, ?_, ?_⟩, ?_⟩, _, rfl⟩ <;> decide +kernel

/-- StuckCpuStaysStuck: V31's state, and the one with the oscillator failure waiting. -/
theorem witness_stuck :
    (let s : State := { m0 with sr := 0x00A0, corcon := 0x0008, stallAddr := true };
      s.Stuck ∧ s.NoOutsideReset) ∧
    (let s : State := { m0 with sr := 0x00C0, corcon := 0x0008, stallOsc := true };
      s.Stuck ∧ s.NoOutsideReset) :=
  ⟨⟨.inl (by decide +kernel), by simp [State.NoOutsideReset, m0, State.reset]⟩,
    .inr (by decide +kernel), by simp [State.NoOutsideReset, m0, State.reset]⟩

/-- DisicntCountsCycles: both clauses, the second where the count covers the slot exactly and where it does not. -/
theorem witness_count : ({ m0.slot with disi := true } : Slot).disi = true ∧ m0.slot.disi = false ∧
    ({ m0 with disicnt := 2, intcon2 := 0x4000 }.count 2).slot.masked = true ∧
    ({ m0 with disicnt := 1, intcon2 := 0x4000 }.count 2).slot.masked = false := by decide +kernel

/-- RetfieRestoresFromFrame and ReturnPopsPc: a frame in ordinary memory, and one whose pops go below 0x0800. -/
theorem witness_frame_below :
    (let s := withW m0 15 0x0804; s.RamAt (s.sp - 2) ∧ s.RamAt (s.sp - 4) ∧
      (s.stackFaulty (s.sp - 2) || s.stackFaulty (s.sp - 4)) = false) ∧
    (m0.RamAt (m0.sp - 2) ∧ m0.RamAt (m0.sp - 4) ∧ m0.stackFaulty (m0.sp - 2) = true) :=
  ⟨⟨ramAt_intro (by decide +kernel), ramAt_intro (by decide +kernel), by decide +kernel⟩,
    ramAt_intro (by decide +kernel), ramAt_intro (by decide +kernel), by decide +kernel⟩

/-- EntryThenRetfieRestores, EntryPushesFrame: the frame in ordinary memory, at the lowest and the highest place. -/
theorem witness_frame : (m0.FrameInRam ∧ m0.wrinh = false ∧ m0.pc.getLsbD 0 = false) ∧ (withW m0 15 0x0FFC).FrameInRam :=
  ⟨⟨⟨ramAt_intro (by decide +kernel), ramAt_intro (by decide +kernel)⟩, by decide, by decide⟩,
    ramAt_intro (by decide +kernel), ramAt_intro (by decide +kernel)⟩

/-- DeviceResetClearsRegisters: a device that implements every vector, from a state that is not the reset state; a reset from
outside that comes next. -/
theorem witness_device_reset : ({ m0 with sr := 0x01FF } : State).cfg.implVec = BitVec.allOnes 118 ∧
    goes (step { m0 with sr := 0x01FF, inputs := [.reset] }) (fun t => t.sr == 0 && t.inputs.isEmpty) = true := by
  decide +kernel

/-- PushStoresAtStackPointer: a word of memory and a register as the operand. -/
theorem witness_push : (m0.RamAt m0.sp ∧ m0.RamAt 0x0900 ∧ m0.ramWord 0x0900 = m0.ramWord 0x0900) ∧
    (m0.SfrIs 0x0042 .sr ∧ Sfr.sr ≠ .rcon ∧ Sfr.sr ≠ .osccon) ∧ m0.stackFaulty m0.sp = false ∧
    (withW m0 15 0x07FE).stackFaulty 0x07FE = true ∧ (withW m0 15 0x07FE).RamAt 0x07FE :=
  ⟨⟨ramAt_intro (by decide +kernel), ramAt_intro (by decide +kernel), rfl⟩,
    ⟨sfrIs_intro (by decide +kernel), by decide, by decide⟩, by decide +kernel, by decide +kernel,
    ramAt_intro (by decide +kernel)⟩

/-- PushOfUnimplementedStoresNothing: the first address past data memory. -/
theorem witness_push_unimplemented : m0.cfg.dataImplemented 0x1000 = false ∧ m0.cfg.dataImplemented 0x0FFE = true ∧
    m0.sp.toNat + 2 ≤ 0xFFFF := by decide +kernel

/-- PopLoadsFromStack: a pop from the bottom of the stack, and one below it; into memory, the images of W0 and W15, an unimplemented
word, and SR as MOV of a register that holds the popped word. -/
theorem witness_pop : (let s := withW m0 15 0x0802; s.RamAt (s.sp - 2) ∧ s.RamAt 0x0900 ∧ s.stackFaulty (s.sp - 2) = false) ∧
    (m0.RamAt (m0.sp - 2) ∧ m0.stackFaulty (m0.sp - 2) = true ∧ m0.SfrIs 0x0000 (.w 0) ∧ m0.SfrIs 0x001E (.w 15)) ∧
    m0.cfg.dataImplemented 0x1000 = false ∧
    (let s := withW (withRam m0 0x07FE 0x0061) 0 0x0061; s.RamAt (s.sp - 2) ∧ s.getW 0 = s.ramWord (s.sp - 2) ∧
      goes (exec (.movToFile 0 0x0042) { s with w := (s.putW 15 (s.sp - 2)).w }) (fun t => t.sr == 0x0061) = true) :=
  ⟨⟨ramAt_intro (by decide +kernel), ramAt_intro (by decide +kernel), by decide +kernel⟩,
    ⟨ramAt_intro (by decide +kernel), by decide +kernel, sfrIs_intro (by decide +kernel), sfrIs_intro (by decide +kernel)⟩,
    by decide +kernel, ramAt_intro (by decide +kernel), by decide +kernel, by decide +kernel⟩

/-- PopSrIsSoftwareWrite, MovToStatusRegisterObeysAccessRules: SR with NSTDIS = 0 and with NSTDIS = 1, and CORCON. -/
theorem witness_status : m0.RamAt (m0.sp - 2) ∧ m0.SfrIs 0x0042 .sr ∧ m0.nstdis = false ∧
    ({ m0 with intcon1 := 0x8000 } : State).SfrIs 0x0042 .sr ∧ ({ m0 with intcon1 := 0x8000 } : State).nstdis = true ∧
    m0.SfrIs 0x0044 .corcon :=
  ⟨ramAt_intro (by decide +kernel), sfrIs_intro (by decide +kernel), by decide, sfrIs_intro (by decide +kernel), by decide,
    sfrIs_intro (by decide +kernel)⟩

/-- MovStoresRegisterInMemory: a word of data memory, and its last one; the images of W0 and W15; the first unimplemented word. -/
theorem witness_store : m0.RamAt 0x0900 ∧ m0.RamAt 0x0FFE ∧ m0.SfrIs 0x0000 (.w 0) ∧ m0.SfrIs 0x001E (.w 15) ∧
    (0x1000 : DataAddr).getLsbD 0 = false ∧ m0.cfg.dataImplemented 0x1000 = false :=
  ⟨ramAt_intro (by decide +kernel), ramAt_intro (by decide +kernel), sfrIs_intro (by decide +kernel),
    sfrIs_intro (by decide +kernel), by decide, by decide +kernel⟩

/-- MovToIntcon1ObeysAccessRules, MovToIntcon2ObeysAccessRules, MovToDisicntExtendsOrEndsDisi, MovToSplimRconOsccon,
MovToSourceRegisterStoresFields: the places of the registers, the first and the last of each family. RCON and OSCCON lie in
implemented data space on this device. -/
theorem witness_registers : m0.SfrIs 0x0080 .intcon1 ∧ m0.SfrIs 0x0082 .intcon2 ∧ m0.SfrIs 0x0052 .disicnt ∧
    m0.SfrIs 0x0020 .splim ∧ m0.SfrIs 0x0740 .rcon ∧ m0.SfrIs 0x0742 .osccon ∧ m0.SfrIs 0x0084 (.ifs 0) ∧
    m0.SfrIs 0x0092 (.ifs 7) ∧ m0.SfrIs 0x0094 (.iec 0) ∧ m0.SfrIs 0x00A2 (.iec 7) ∧ m0.SfrIs 0x00A4 (.ipc 0) ∧
    m0.SfrIs 0x00DE (.ipc 29) := by
  refine ⟨?_, ?_, ?_, ?_, ?_, ?_, ?_, ?_, ?_, ?_, ?_, ?_⟩ <;> exact sfrIs_intro (by decide +kernel)

/-- MovToSplimRconOsccon: RCON with bit 15 of the register set and clear, and the BCLR clause. -/
theorem witness_trapr : (withW m0 0 0x8000).SfrIs 0x0740 .rcon ∧ ((withW m0 0 0x8000).getW 0).getLsbD 15 = true ∧
    (m0.getW 0).getLsbD 15 = false ∧ bitByteAddr 0x0740 15 = 0x0741 ∧ m0.cfg.dataImplemented 0x0741 = true ∧
    m0.cfg.sfrAt 0x0741 = some .rcon ∧ m0.cfg.upperLane 0x0741 = true ∧ (15 : BitVec 4).toNat % 8 = 7 := 
  ⟨sfrIs_intro (by decide +kernel), by decide +kernel⟩

/-- MovToSplimRconOsccon, BSET and BCLR of the low byte of OSCCON: bit 3, which is CF, and bit 0. -/
theorem witness_cf : bitByteAddr 0x0742 3 = 0x0742 ∧ bitByteAddr 0x0742 0 = 0x0742 ∧ m0.cfg.dataImplemented 0x0742 = true ∧
    m0.cfg.sfrAt 0x0742 = some .osccon ∧ m0.cfg.upperLane 0x0742 = false ∧ ({ m0 with cf := true } : State).cf = true := by
  decide +kernel

/-- MovLoadsWordFromFile: memory and registers, RCON and OSCCON among them, and an unimplemented word. -/
theorem witness_load : (0x0900 : DataAddr).getLsbD 0 = false ∧ m0.RamAt 0x0900 ∧
    m0.SfrIs 0x0042 .sr ∧ m0.SfrIs 0x0740 .rcon ∧ m0.SfrIs 0x0742 .osccon ∧ m0.cfg.dataImplemented 0x1000 = false :=
  ⟨by decide, ramAt_intro (by decide +kernel), sfrIs_intro (by decide +kernel),
    sfrIs_intro (by decide +kernel), sfrIs_intro (by decide +kernel), by decide +kernel⟩

/-- BitInstructionsChangeOneBit: bit 0 of a word and bit 15 of the last word of data memory, and a byte past it. -/
theorem witness_bit : bitByteAddr 0x0900 0 = 0x0900 ∧ m0.cfg.dataImplemented 0x0900 = true ∧ m0.cfg.sfrAt 0x0900 = none ∧
    bitByteAddr 0x0FFE 15 = 0x0FFF ∧ m0.cfg.dataImplemented 0x0FFF = true ∧ m0.cfg.sfrAt 0x0FFF = none ∧
    m0.cfg.dataImplemented (bitByteAddr 0x1000 0) = false := by decide +kernel

/-- BitInstructionsOnRegisters: vector 0, vector 117 in IFS7<5> and IEC7<5>, the trap flag ADDRERR and NSTDIS in INTCON1, with a
register that holds the value written. -/
theorem witness_bit_register : m0.cfg.byteOrder = .little ∧ m0.SfrIs ((0x0084 : BitVec 13).setWidth 16) (.ifs 0) ∧
    m0.cfg.dataImplemented (bitByteAddr 0x0084 0) = true ∧ m0.SfrIs ((0x0092 : BitVec 13).setWidth 16) (.ifs 7) ∧
    m0.cfg.dataImplemented (bitByteAddr 0x0092 5) = true ∧ m0.implemented 117 = true ∧
    m0.SfrIs ((0x00A2 : BitVec 13).setWidth 16) (.iec 7) ∧ m0.cfg.dataImplemented (bitByteAddr 0x00A2 5) = true ∧
    m0.SfrIs ((0x0080 : BitVec 13).setWidth 16) .intcon1 ∧ m0.cfg.dataImplemented (bitByteAddr 0x0080 3) = true ∧
    m0.cfg.dataImplemented (bitByteAddr 0x0080 15) = true ∧ (3 : BitVec 4).toNat = Trap.addressError.flagBit ∧
    m0.getW 0 = setBit (m0.sfrValue (.ifs 0)) 0 false ∧ (withW m0 0 1).getW 0 = setBit ((withW m0 0 1).sfrValue (.ifs 0)) 0 true := by
  refine ⟨by decide, sfrIs_intro ?_, ?_, sfrIs_intro ?_, ?_, ?_, sfrIs_intro ?_, ?_, sfrIs_intro ?_, ?_, ?_, ?_, ?_, ?_⟩ <;>
    decide +kernel

/-- OnlyNamedWritesAreRefused: each refusal happens, and instructions complete. -/
theorem witness_refused : refuses (exec (.bclr 0x0020 15) m0) .splimByteWrite = true ∧
    refuses (exec (.bset 0x0742 8) m0) .oscconOtherUse = true ∧ refuses (exec (.pop 0x0740) (withRam m0 0x07FE 0x8000)) .rconOtherUse = true ∧
    refuses (exec (.push 0x0900) (withRam (withW m0 15 0x0740) 0x0900 0x8000)) .rconOtherUse = true ∧
    goes (exec (.bset 0x0900 0) m0) (fun t => t.pc == 2) = true := by decide +kernel

/-- MovIndirectLoadsOrRaises: a pointer to memory, to a register, an odd one, and W15 below 0x0800. -/
theorem witness_indirect : (withW m0 1 0x0900).RamAt ((withW m0 1 0x0900).getW 1) ∧
    (withW m0 1 0x0042).SfrIs ((withW m0 1 0x0042).getW 1) .sr ∧ ((withW m0 1 0x0901).getW 1).getLsbD 0 = true ∧
    (withW m0 15 0x07FE).stackFaulty ((withW m0 15 0x07FE).getW 15) = true :=
  ⟨ramAt_intro (by decide +kernel), sfrIs_intro (by decide +kernel), by decide +kernel, by decide +kernel⟩

/-- NstdisMakesIplReadOnly: a write of SR while NSTDIS = 1. -/
theorem witness_nstdis : (∃ t, exec (.movToFile 0 0x0042) { m0 with intcon1 := 0x8000 } = .next t) ∧
    ({ m0 with intcon1 := 0x8000 } : State).nstdis = true := ⟨⟨_, rfl⟩, by decide⟩

/-- ReadOnlyBitsAreReadOnly: IPL3 goes from 0 to 1 by RETFIE and the DISI bit by DISI, so no clause is empty. -/
theorem witness_read_only :
    (m0.ipl3 = false ∧ goes (exec .retfie (withRam m0 0x07FE 0x0080)) (fun t => t.ipl3) = true) ∧
    (m0.disiBit = false ∧ goes (exec (.disi 1) m0) (fun t => t.disiBit) = true) ∧
    goes (exec (.movToFile 0 0x0042) (withW m0 0 0x0010)) (fun t => !t.sr.getLsbD 4) = true := by decide +kernel

/-- InstructionsLeaveHiddenState: an instruction that completes while SPLIM_EN = 1. -/
theorem witness_hidden : (∃ t, exec .nop { m0 with splimEn := true } = .next t) ∧
    ({ m0 with splimEn := true } : State).splimEn = true := ⟨⟨_, rfl⟩, rfl⟩

/-- AddressErrorInhibitsWrites: a push of an unimplemented word, and a pop from one into a register. -/
theorem witness_inhibit :
    goes (exec (.push 0x1000) m0) (fun t => t.slot.raised.addr && !t.trapFlag .addressError) = true ∧
    goes (exec (.pop 0x0042) (withW m0 15 0x1002)) (fun t => t.slot.raised.addr && !t.trapFlag .addressError && t.sr == 0) = true
    := by decide +kernel

/-- WinnerIsHighestThenLowestVector, SelectionTakesTrapsFirst: a winner, and none; a trap, and an interrupt. -/
theorem witness_winner : (pending m0 6 6 0x4444).winner = some 1 ∧ m0.winner = none ∧
    (pending m0 6 6 0x4444).select = some (.irq 1) ∧
    (pending { m0 with intcon1 := 0x0014 } 6 6 0x4444).select = some (.trap .stackError) := by decide +kernel

/-- TrapsCannotBeMasked: the math error at IPL<2:0> = 111 with every interrupt masked. -/
theorem witness_unmasked_trap :
    let s : State := { m0 with sr := 0x00E0, intcon1 := 0x0010 }
    s.ipl3 = false ∧ s.trapFlag .mathError = true ∧ s.skid .mathError = 0 := by decide +kernel

/-- MaskingOfUserInterrupts: one state for each clause; V7 at priority 4, V9 at the CPU's own; priority 6 is masked and 7 is not. -/
theorem witness_masking :
    (let s := pending m0 6 6 0x4444; s.slot.masked = false ∧ (s.ipField 1).toNat = 4 ∧ s.eligible 1 = true) ∧
    (let s := pending { m0 with sr := 0x0080 } 6 6 0x4444;
      s.slot.masked = false ∧ (s.ipField 1).toNat = s.cpuPri ∧ s.eligible 1 = false) ∧
    (let s := pending { m0 with slot := { m0.slot with masked := true } } 3 3 0x4476;
      s.slot.masked = true ∧ (s.ipField 0).toNat = 6 ∧ (s.ipField 1).toNat = 7 ∧ s.eligible 1 = true) ∧
    ({ m0 with sr := 0x00E0 } : State).ipl = 7 ∧ ({ m0 with corcon := 0x0008 } : State).ipl3 = true ∧
    ({ m0 with cfg := { dev with implVec := 0 } } : State).implemented 0 = false := by decide +kernel

/-- InterruptEntrySetsPriority: with NSTDIS = 0 and with NSTDIS = 1. -/
theorem witness_interrupt_entry : m0.FrameInRam ∧ m0.wrinh = false ∧ m0.ipl3 = false ∧ m0.nstdis = false ∧
    ({ m0 with intcon1 := 0x8000 } : State).FrameInRam ∧ ({ m0 with intcon1 := 0x8000 } : State).nstdis = true :=
  ⟨⟨ramAt_intro (by decide +kernel), ramAt_intro (by decide +kernel)⟩, by decide, by decide, by decide,
    ⟨ramAt_intro (by decide +kernel), ramAt_intro (by decide +kernel)⟩, by decide⟩

/-- EntryLoadsVector: the first trap and the last interrupt, in either table. -/
theorem witness_vector : m0.FrameInRam ∧ m0.wrinh = false ∧
    m0.cfg.progImplemented (BitVec.ofNat 23 (0x000004 + 2 * 1)) = true ∧
    m0.cfg.progImplemented (BitVec.ofNat 23 (0x000104 + 2 * (8 + 117))) = true :=
  ⟨⟨ramAt_intro (by decide +kernel), ramAt_intro (by decide +kernel)⟩, by decide, by decide +kernel, by decide +kernel⟩

/-- EntryRaisesCpuPriority, and ArbitrationEntersWhatIsSelected: a selected source on a device that enters further sources first, and
on one that does not; nothing selected; a slot that ends running, and one that ends asleep, without a conflict. -/
theorem witness_entry_raises : (pending m0 6 6 0x4544).select = some (.irq 2) ∧
    ((pending m0 6 6 0x4544).enterSlot (.irq 2)).hardTrapWaits = false ∧ m0.cfg.preemptBeforeFirst = false ∧
    (pending { m0 with cfg := { dev with preemptBeforeFirst := true } } 6 6 0x4544).cfg.preemptBeforeFirst = true ∧
    (pending { m0 with cfg := { dev with preemptBeforeFirst := true } } 6 6 0x4544).select ≠ none ∧ m0.select = none ∧
    (m0.events m0.slot.cycles).conflict = false ∧ ((m0.events m0.slot.cycles).count m0.slot.cycles).wake.mode = .run ∧
    (let s : State := { m0 with mode := .sleep };
      (s.events s.slot.cycles).conflict = false ∧ ((s.events s.slot.cycles).count s.slot.cycles).wake.mode ≠ .run) := by
  decide +kernel

/-- CycleEventsSetFlags, EventsPostRaisedTraps: both cases of a soft trap; in the other order of R56 a flag that loses its race, one
that software wrote 1 to, and CF. -/
theorem witness_events : m0.slot.raised.stk = false ∧ m0.slot.raised.math = false ∧
    (m0.raise .stackError).slot.raised.stk = true ∧ (m0.raise .mathError).slot.raised.math = true ∧
    (let s := { m0 with cfg := { dev with hwSetLast := false } };
      goes (exec (.bclr 0x0084 0) s) (fun t => t.raceLost (.ifs 0) 0 && !(t.cycleEvents ⟨[0, 1], 0, false⟩).ifBit 0) = true ∧
      goes (exec (.bset 0x0084 1) s) (fun t => !t.raceLost (.ifs 0) 1 && (t.cycleEvents ⟨[0, 1], 0, false⟩).ifBit 1) = true ∧
      goes (exec (.movToFile 0 0x0742) s) (fun t => t.raceLost .osccon 3) = true ∧
      goes (exec (.movToFile 0 0x0080) s) (fun t => t.raceLost .intcon1 3) = true) := by decide +kernel

/-- HardTrapConflictResetsDevice: V30's two ways. -/
theorem witness_conflict :
    (let s := { m0 with sr := 0x00C0, corcon := 0x0008 }.raise .addressError;
      s.slot.raised.addr = true ∧ 14 ≤ s.cpuPri) ∧
    (let s := { m0 with inputs := [.cycle ⟨[], 0, true⟩] }.raise .addressError;
      s.slot.raised.addr = true ∧ (s.events s.slot.cycles).trapFlag .oscillatorFail = true ∧ s.cpuPri < 14) := by
  decide +kernel

/-- WakeUpWithoutEntryResumes: V50, where the request comes in the cycle and wakes; and a cycle without one. -/
theorem witness_wake :
    (let s := pending { m0 with pc := 0x208, sr := 0x0080, mode := .idle, inputs := [.cycle ⟨[1], 0, false⟩] } 0 2 0x4444
     let s1 := s.begin.cycleEvents ⟨[1], 0, false⟩;
      s.mode ≠ .run ∧ s.inputs = .cycle ⟨[1], 0, false⟩ :: [] ∧ (false && s.cfg.fscmEnabled) = false ∧
      (∀ x, s.trapFlag x = false) ∧ (s1.ifBit 1 && s1.ieBit 1) = true ∧
      ∀ v : Vec, s1.ifBit v = true → s1.ieBit v = true → (s1.ipField v).toNat ≤ s.cpuPri) ∧
    (let s : State := { m0 with mode := .sleep };
      s.mode ≠ .run ∧ s.inputs = [] ∧ (∀ x, s.trapFlag x = false) ∧
      ∀ v : Vec, s.begin.ifBit v = true → s.begin.ieBit v = true → (s.begin.ipField v).toNat ≤ s.cpuPri) := by
  refine ⟨⟨by decide, rfl, by decide, fun x => by cases x <;> decide +kernel, by decide +kernel, by decide +kernel⟩,
    by decide, rfl, fun x => by cases x <;> decide +kernel, by decide +kernel⟩

/-- ExternalAnswersKeepContract: an answer that completes with the premise of each item, and one whose write is refused. -/
theorem witness_external :
    (let a : CpuAnswer := ⟨true, 1, [.readWord (.viaW15 0x10000), .writeWord (.viaW15 0x0902) 7, .indirectBit (.plain 0x0901),
        .divide 0, .setRepeat true]⟩
     let s := { m0 with splim := 0x0900, splimEn := true, intcon1 := 0x8000 };
      a.addressError s.cfg = true ∧ s.nstdis = true ∧ (s.splim &&& 0xFFFE).toNat < 0x0902 % 0x10000 ∧
      (match s.runAnswer a with
        | .ok t => t.slot.raised == ⟨false, true, true, true⟩ && t.slot.written.isEmpty && t.mem.isEmpty
        | .error _ => false) = true) ∧
    (match m0.runAnswer ⟨false, 0, [.writeWord (.plain 0x0740) 0x8000]⟩ with
      | .ok _ => false
      | .error r => r == .rconOtherUse) = true := by decide +kernel

/-- OrIntoSrlDisablesUserInterrupts: NSTDIS = 1 and NSTDIS = 0. -/
theorem witness_or_srl : ({ m0 with intcon1 := 0x8000 } : State).nstdis = true ∧ m0.nstdis = false := by decide

end Sys2Proof.Tests
end

section
/-!
PROOFS. The arbitration of a slot: the winner among the interrupt sources (R180) and the one source to enter (R204).
-/

namespace Sys2Proof.Machine

/-! ### The winner -/

/-- `u` loses to `v`, or is `v`: its priority is lower, or the same with a vector number not below (R180). -/
def State.Yields (s : State) (u v : Vec) : Prop :=
  (s.ipField u).toNat < (s.ipField v).toNat ∨ (s.ipField u = s.ipField v ∧ v.val ≤ u.val)

/-- `v` is the winner among the sources of a list (R180). -/
def State.IsBestOf (s : State) (l : List Vec) (v : Vec) : Prop :=
  v ∈ l ∧ s.eligible v = true ∧ ∀ u ∈ l, s.eligible u = true → s.Yields u v

theorem State.Yields.refl (s : State) (v : Vec) : s.Yields v v := .inr ⟨rfl, le_rfl⟩

theorem State.Yields.antisymm {s : State} {u v : Vec} (huv : s.Yields u v) (hvu : s.Yields v u) : u = v := by
  obtain hlt | ⟨heq, hle⟩ := huv <;> obtain hlt' | ⟨heq', hle'⟩ := hvu
  · omega
  · rw [heq'] at hlt; omega
  · rw [heq] at hlt'; omega
  · exact Fin.ext (le_antisymm hle' hle)

theorem State.Yields.trans {s : State} {u v w : Vec} (huv : s.Yields u v) (hvw : s.Yields v w) : s.Yields u w := by
  obtain hlt | ⟨heq, hle⟩ := huv <;> obtain hlt' | ⟨heq', hle'⟩ := hvw
  · exact .inl (hlt.trans hlt')
  · exact .inl (heq' ▸ hlt)
  · exact .inl (heq ▸ hlt')
  · exact .inr ⟨heq.trans heq', hle'.trans hle⟩

/-- A vector number in front wins a tie. -/
theorem State.yields_of_toNat_le {s : State} {u v : Vec} (hip : (s.ipField u).toNat ≤ (s.ipField v).toNat) (hlt : v < u) :
    s.Yields u v := by
  obtain hip | hip := hip.lt_or_eq
  · exact .inl hip
  · exact .inr ⟨BitVec.eq_of_toNat_eq hip, hlt.le⟩

theorem State.IsBestOf.unique {s : State} {l : List Vec} {u v : Vec} (hu : s.IsBestOf l u) (hv : s.IsBestOf l v) : u = v := by
  obtain ⟨hul, heu, hbu⟩ := hu
  obtain ⟨hvl, hev, hbv⟩ := hv
  exact (hbv u hul heu).antisymm (hbu v hvl hev)

/-- An ineligible source in front changes no winner. -/
theorem State.IsBestOf.cons_of_not_eligible {s : State} {l : List Vec} {u v : Vec} (hu : s.IsBestOf l u)
    (hv : s.eligible v = false) : s.IsBestOf (v :: l) u := by
  obtain ⟨hul, heu, hbest⟩ := hu
  refine ⟨List.mem_cons_of_mem v hul, heu, fun x hx hex => ?_⟩
  obtain rfl | hx := List.mem_cons.1 hx
  · simp [hv] at hex
  · exact hbest x hx hex

/-- A source in front that yields to the winner leaves it the winner. -/
theorem State.IsBestOf.cons_of_yields {s : State} {l : List Vec} {u v : Vec} (hu : s.IsBestOf l u)
    (hvu : s.Yields v u) : s.IsBestOf (v :: l) u := by
  obtain ⟨hul, heu, hbest⟩ := hu
  exact ⟨List.mem_cons_of_mem v hul, heu, List.forall_mem_cons.2 ⟨fun _ => hvu, hbest⟩⟩

/-- An eligible source in front of the winner that does not yield to it is the winner. -/
theorem State.IsBestOf.cons_self {s : State} {l : List Vec} {u v : Vec} (hu : s.IsBestOf l u) (hv : s.eligible v = true)
    (huv : s.Yields u v) : s.IsBestOf (v :: l) v := by
  obtain ⟨-, -, hbest⟩ := hu
  exact ⟨List.mem_cons_self, hv,
    List.forall_mem_cons.2 ⟨fun _ => .refl s v, fun x hx hex => (hbest x hx hex).trans huv⟩⟩

/-- In front of ineligible sources an eligible one is the winner. -/
theorem State.IsBestOf.of_alone {s : State} {l : List Vec} {v : Vec} (hv : s.eligible v = true)
    (hl : ∀ u ∈ l, s.eligible u = false) : s.IsBestOf (v :: l) v := by
  refine ⟨List.mem_cons_self, hv, List.forall_mem_cons.2 ⟨fun _ => .refl s v, fun u hu heu => ?_⟩⟩
  simp [hl u hu] at heu

theorem bestOf_cons_of_none {s : State} {l : List Vec} (v : Vec) (h : s.bestOf l = none) :
    s.bestOf (v :: l) = if s.eligible v then some v else none := by
  simp only [State.bestOf, h]

theorem bestOf_cons_of_some {s : State} {l : List Vec} {u : Vec} (v : Vec) (h : s.bestOf l = some u) :
    s.bestOf (v :: l) = if s.eligible v && decide ((s.ipField u).toNat ≤ (s.ipField v).toNat) then some v else some u := by
  simp only [State.bestOf, h]

/-- What `bestOf` answers on a list of ascending vector numbers: nothing when no source is eligible, else the winner. -/
theorem bestOf_cases (s : State) (l : List Vec) (hl : l.Pairwise (· < ·)) :
    ((∀ u ∈ l, s.eligible u = false) ∧ s.bestOf l = none) ∨ ∃ v, s.IsBestOf l v ∧ s.bestOf l = some v := by
  induction l with
  | nil => exact .inl ⟨by simp, rfl⟩
  | cons v l ih =>
    obtain ⟨hfront, hrest⟩ := List.pairwise_cons.1 hl
    obtain ⟨hnone, heq⟩ | ⟨u, hu, heq⟩ := ih hrest
    · rw [bestOf_cons_of_none v heq]
      split
      · next hv => exact .inr ⟨v, .of_alone hv hnone, rfl⟩
      · next hv => exact .inl ⟨List.forall_mem_cons.2 ⟨Bool.eq_false_of_not_eq_true hv, hnone⟩, rfl⟩
    · rw [bestOf_cons_of_some v heq]
      right
      have ⟨hul, _, _⟩ := hu
      have hvu : v < u := hfront u hul
      cases hv : s.eligible v with
      | false => exact ⟨u, hu.cons_of_not_eligible hv, rfl⟩
      | true =>
        by_cases hip : (s.ipField u).toNat ≤ (s.ipField v).toNat
        · exact ⟨v, hu.cons_self hv (State.yields_of_toNat_le hip hvu), by simp [hip]⟩
        · exact ⟨u, hu.cons_of_yields (.inl (not_le.1 hip)), by simp [hip]⟩

/-- What the arbitration among the interrupt sources answers (R180). -/
theorem winner_cases (s : State) :
    ((∀ u, s.eligible u = false) ∧ s.winner = none) ∨ ∃ v, s.IsBestOf (List.finRange 118) v ∧ s.winner = some v := by
  have h := bestOf_cases s (List.finRange 118) (List.pairwise_lt_finRange 118)
  simpa [State.winner] using h

theorem winner_eq_some_iff (s : State) (v : Vec) : s.winner = some v ↔ s.IsBestOf (List.finRange 118) v := by
  obtain ⟨hnone, heq⟩ | ⟨u, hu, heq⟩ := winner_cases s
  · rw [heq]
    exact ⟨nofun, fun ⟨_, hv, _⟩ => by simp [hnone v] at hv⟩
  · rw [heq, Option.some_inj]
    exact ⟨fun h => h ▸ hu, hu.unique⟩

theorem winner_eq_none_iff (s : State) : s.winner = none ↔ ∀ u, s.eligible u = false := by
  obtain ⟨hnone, heq⟩ | ⟨v, ⟨-, hv, -⟩, heq⟩ := winner_cases s
  · exact iff_of_true heq hnone
  · rw [heq]
    exact ⟨nofun, fun h => by simp [h v] at hv⟩

/-- Settles O44: `bestOf` keeps the winner of the rest of the list unless the source in front has at least its priority, and the
vector numbers ascend. -/
theorem winnerIsHighestThenLowestVector : Obligations.WinnerIsHighestThenLowestVector := by
  refine fun s => ⟨fun v => ?_, winner_eq_none_iff s⟩
  simp [winner_eq_some_iff, State.IsBestOf, State.Yields]

/-! ### The selection -/

@[simp] theorem Trap.priority_oscillatorFail : Trap.oscillatorFail.priority = 14 := rfl
@[simp] theorem Trap.priority_addressError : Trap.addressError.priority = 13 := rfl
@[simp] theorem Trap.priority_stackError : Trap.stackError.priority = 12 := rfl
@[simp] theorem Trap.priority_mathError : Trap.mathError.priority = 11 := rfl

/-- No two traps have the same priority (R182). -/
theorem Trap.priority_injective : Function.Injective Trap.priority := by
  intro t x
  cases t <;> cases x <;> simp

theorem trapCandidate_iff (s : State) (x : Trap) :
    s.trapCandidate x = true ↔ s.trapFlag x = true ∧ s.skid x = 0 ∧ s.cpuPri < x.priority := by
  simp [State.trapCandidate, and_assoc]

/-- A hard trap has no skid, and a soft trap its own (R197). -/
theorem skid_eq_zero_iff (s : State) (x : Trap) :
    s.skid x = 0 ↔ (x = .stackError → s.skidStack = 0) ∧ (x = .mathError → s.skidMath = 0) := by
  cases x <;> simp [State.skid]

/-- `t` is the candidate trap of highest priority (R204). -/
def State.IsTopTrap (s : State) (t : Trap) : Prop :=
  s.trapCandidate t = true ∧ ∀ x, s.trapCandidate x = true → x.priority ≤ t.priority

theorem State.IsTopTrap.unique {s : State} {t x : Trap} (ht : s.IsTopTrap t) (hx : s.IsTopTrap x) : t = x := by
  obtain ⟨htc, htop⟩ := ht
  obtain ⟨hxc, hxtop⟩ := hx
  exact Trap.priority_injective (le_antisymm (hxtop t htc) (htop x hxc))

/-- The candidate trap of highest priority is the one of which no trap above it is a candidate. -/
theorem State.IsTopTrap.of_above {s : State} {t : Trap} (ht : s.trapCandidate t = true)
    (habove : ∀ x, t.priority < x.priority → ¬ s.trapCandidate x = true) : s.IsTopTrap t :=
  ⟨ht, fun x hx => not_lt.1 fun hlt => habove x hlt hx⟩

/-- What the arbitration selects: the candidate trap of highest priority, and without a candidate the winner (R204). -/
theorem select_cases (s : State) :
    (∃ t, s.IsTopTrap t ∧ s.select = some (.trap t)) ∨
    ((∀ x, s.trapCandidate x = false) ∧ s.select = s.winner.map .irq) := by
  unfold State.select
  split
  · next hosc => exact .inl ⟨_, .of_above hosc fun x hx => by cases x <;> simp at hx, rfl⟩
  next hosc =>
  split
  · next haddr => exact .inl ⟨_, .of_above haddr fun x hx => by cases x <;> simp [hosc] at hx ⊢, rfl⟩
  next haddr =>
  split
  · next hstk => exact .inl ⟨_, .of_above hstk fun x hx => by cases x <;> simp [hosc, haddr] at hx ⊢, rfl⟩
  next hstk =>
  split
  · next hmath => exact .inl ⟨_, .of_above hmath fun x hx => by cases x <;> simp [hosc, haddr, hstk] at hx ⊢, rfl⟩
  next hmath =>
  refine .inr ⟨fun x => ?_, rfl⟩
  cases x <;> simp [hosc, haddr, hstk, hmath]

theorem select_eq_trap_iff (s : State) (t : Trap) : s.select = some (.trap t) ↔ s.IsTopTrap t := by
  obtain ⟨x, hx, heq⟩ | ⟨hnone, heq⟩ := select_cases s
  · rw [heq, Option.some_inj, Source.trap.injEq]
    exact ⟨fun h => h ▸ hx, hx.unique⟩
  · rw [heq]
    exact ⟨by simp, fun ⟨ht, _⟩ => by simp [hnone t] at ht⟩

theorem select_eq_irq_iff (s : State) (v : Vec) :
    s.select = some (.irq v) ↔ (∀ x, s.trapCandidate x = false) ∧ s.winner = some v := by
  obtain ⟨x, ⟨hx, -⟩, heq⟩ | ⟨hnone, heq⟩ := select_cases s
  · rw [heq]
    exact ⟨by simp, fun ⟨hnone, _⟩ => by simp [hnone x] at hx⟩
  · simp [heq, hnone]

theorem cpuPri_lt_of_eligible {s : State} {v : Vec} (h : s.eligible v = true) : s.cpuPri < (s.ipField v).toNat := by
  simp only [State.eligible, Bool.and_eq_true, decide_eq_true_eq] at h
  obtain ⟨⟨-, hpri⟩, -⟩ := h
  exact hpri

/-- What is selected has a priority above CPUPRI (R172). -/
theorem cpuPri_lt_of_select {s : State} {src : Source} (h : s.select = some src) : s.cpuPri < s.sourcePri src := by
  cases src with
  | trap t =>
    obtain ⟨hcand, -⟩ := (select_eq_trap_iff s t).1 h
    obtain ⟨-, -, hpri⟩ := (trapCandidate_iff s t).1 hcand
    exact hpri
  | irq v =>
    obtain ⟨-, hwin⟩ := (select_eq_irq_iff s v).1 h
    obtain ⟨-, helig, -⟩ := (winner_eq_some_iff s v).1 hwin
    exact cpuPri_lt_of_eligible helig

/-- Settles O45: the four branches of `select` go through the traps by falling priority. -/
theorem selectionTakesTrapsFirst : Obligations.SelectionTakesTrapsFirst := by
  refine fun s => ⟨fun x => ?_, select_eq_trap_iff s, select_eq_irq_iff s, fun _ => cpuPri_lt_of_select⟩
  rw [trapCandidate_iff, skid_eq_zero_iff, Trap.priority]
  tauto

end Sys2Proof.Machine
end

section
/-!
PROOFS. Encoding and decoding (spec/30_encoding.md): each row of the opcode table by the number of its first word, and the two round
trips.
-/

namespace Sys2Proof

open Sys2Proof.Machine

/-- R101: the family of `Laws.EncodeLength` over all constructors. -/
theorem encodeLength (i : Instr) : Laws.EncodeLength.Statement i := by
  cases i with
  | disi k => exact Laws.EncodeLength.disi k
  | retfie => exact Laws.EncodeLength.retfie
  | goto t => exact Laws.EncodeLength.goto t
  | bra n => exact Laws.EncodeLength.bra n
  | ret => exact Laws.EncodeLength.ret
  | reset => exact Laws.EncodeLength.reset
  | pwrsav k => exact Laws.EncodeLength.pwrsav k
  | push f => exact Laws.EncodeLength.push f
  | pop f => exact Laws.EncodeLength.pop f
  | nop => exact Laws.EncodeLength.nop
  | movLit k d => exact Laws.EncodeLength.movLit k d
  | movToFile n f => exact Laws.EncodeLength.movToFile n f
  | movFromFile f d => exact Laws.EncodeLength.movFromFile f d
  | bset f b => exact Laws.EncodeLength.bset f b
  | bclr f b => exact Laws.EncodeLength.bclr f b
  | iorLit k n => exact Laws.EncodeLength.iorLit k n
  | movInd n d => exact Laws.EncodeLength.movInd n d

/-! ### Fields as numbers -/

theorem toNat_slice {w : Nat} (x : BitVec w) (a n : Nat) : (x.extractLsb' a n).toNat = x.toNat / 2 ^ a % 2 ^ n := by
  rw [BitVec.extractLsb'_toNat, Nat.shiftRight_eq_div_pow]

theorem toNat_append_eq {m n : Nat} (x : BitVec m) (y : BitVec n) : (x ++ y).toNat = x.toNat * 2 ^ n + y.toNat := by
  rw [BitVec.toNat_append, ← Nat.shiftLeft_add_eq_or_of_lt y.isLt, Nat.shiftLeft_eq]

theorem toNat_regField (n : WReg) : (regField n).toNat = n.val := by
  rw [regField, BitVec.toNat_ofNat]; omega

theorem wField_eq_iff (x : BitVec 4) (n : WReg) : wField x = n ↔ x.toNat = n.val := Fin.ext_iff

@[simp] theorem wField_val (x : BitVec 4) : (wField x).val = x.toNat := rfl

theorem bit_zero_eq_false_iff {w : Nat} (x : BitVec w) : x.getLsbD 0 = false ↔ x.toNat % 2 = 0 := by
  rw [BitVec.getLsbD, Nat.testBit_zero]; simp

/-- An address made by appending a clear bit 0 is even. -/
theorem append_zero_bit_zero {w : Nat} (x : BitVec w) : (x ++ 0#1).getLsbD 0 = false := by
  rw [BitVec.getLsbD_append]; rfl

theorem isTwoWord_iff (w : ProgWord) : isTwoWord w = true ↔ w.toNat / 2 ^ 16 = 4 ∧ w.toNat % 2 = 0 := by
  have := w.isLt
  simp only [isTwoWord, toNat_slice, BitVec.toNat_eq, decide_eq_true_eq, BitVec.toNat_ofNat]
  omega

/-! ### The rows of the opcode table

The rows exclude each other by the number of the first word, so the place of a row among the branches of `decode` does not
matter. -/

section rows

variable {w : ProgWord} (w2 : ProgWord)

theorem decode_disi (h : w.toNat / 2 ^ 14 = 0x3F0) : decode w w2 = .ok (.disi (w.extractLsb' 0 14)) := by
  simp only [decode, BitVec.toNat_eq, toNat_slice, BitVec.toNat_ofNat]
  rw [if_pos (by omega)]

theorem decode_goto {w2 : ProgWord} (h : w.toNat / 2 ^ 16 = 0x04) (h0 : w.toNat % 2 = 0) (h2 : w2.toNat / 2 ^ 7 = 0) :
    decode w w2 = .ok (.goto (w2.extractLsb' 0 7 ++ w.extractLsb' 1 15 ++ 0#1)) := by
  simp only [decode, isTwoWord_iff, BitVec.toNat_eq, toNat_slice, BitVec.toNat_ofNat]
  simp (disch := omega) only [if_neg, if_pos]

theorem decode_bra (h : w.toNat / 2 ^ 16 = 0x37) : decode w w2 = .ok (.bra (w.extractLsb' 0 16)) := by
  simp only [decode, isTwoWord_iff, BitVec.toNat_eq, toNat_slice, BitVec.toNat_ofNat]
  simp (disch := omega) only [if_neg, if_pos]

theorem decode_pwrsav (h : w.toNat / 2 = 0x7F2000) : decode w w2 = .ok (.pwrsav (w.extractLsb' 0 1)) := by
  simp only [decode, isTwoWord_iff, BitVec.toNat_eq, toNat_slice, BitVec.toNat_ofNat]
  simp (disch := omega) only [if_neg, if_pos]

theorem decode_push (h : w.toNat / 2 ^ 16 = 0xF8) (h0 : w.toNat % 2 = 0) :
    decode w w2 = .ok (.push (fileAddr (w.extractLsb' 1 15))) := by
  simp only [decode, isTwoWord_iff, BitVec.toNat_eq, toNat_slice, BitVec.toNat_ofNat]
  simp (disch := omega) only [if_neg, if_pos]

theorem decode_pop (h : w.toNat / 2 ^ 16 = 0xF9) (h0 : w.toNat % 2 = 0) :
    decode w w2 = .ok (.pop (fileAddr (w.extractLsb' 1 15))) := by
  simp only [decode, isTwoWord_iff, BitVec.toNat_eq, toNat_slice, BitVec.toNat_ofNat]
  simp (disch := omega) only [if_neg, if_pos]

theorem decode_nop (h : w.toNat / 2 ^ 16 = 0x00) : decode w w2 = .ok .nop := by
  simp only [decode, isTwoWord_iff, BitVec.toNat_eq, toNat_slice, BitVec.toNat_ofNat]
  simp (disch := omega) only [if_neg, if_pos]

theorem decode_movLit (h : w.toNat / 2 ^ 20 = 0x2) :
    decode w w2 = .ok (.movLit (w.extractLsb' 4 16) (wField (w.extractLsb' 0 4))) := by
  simp only [decode, isTwoWord_iff, BitVec.toNat_eq, toNat_slice, BitVec.toNat_ofNat]
  simp (disch := omega) only [if_neg, if_pos]

theorem decode_movToFile (h : w.toNat / 2 ^ 19 = 0x11) :
    decode w w2 = .ok (.movToFile (wField (w.extractLsb' 0 4)) (fileAddr (w.extractLsb' 4 15))) := by
  simp only [decode, isTwoWord_iff, BitVec.toNat_eq, toNat_slice, BitVec.toNat_ofNat]
  simp (disch := omega) only [if_neg, if_pos]

theorem decode_movFromFile (h : w.toNat / 2 ^ 19 = 0x10) :
    decode w w2 = .ok (.movFromFile (fileAddr (w.extractLsb' 4 15)) (wField (w.extractLsb' 0 4))) := by
  simp only [decode, isTwoWord_iff, BitVec.toNat_eq, toNat_slice, BitVec.toNat_ofNat]
  simp (disch := omega) only [if_neg, if_pos]

theorem decode_bset (h : w.toNat / 2 ^ 16 = 0xA8) :
    decode w w2 = .ok (.bset (w.extractLsb' 1 12 ++ 0#1) (w.extractLsb' 0 1 ++ w.extractLsb' 13 3)) := by
  simp only [decode, isTwoWord_iff, BitVec.toNat_eq, toNat_slice, BitVec.toNat_ofNat]
  simp (disch := omega) only [if_neg, if_pos]

theorem decode_bclr (h : w.toNat / 2 ^ 16 = 0xA9) :
    decode w w2 = .ok (.bclr (w.extractLsb' 1 12 ++ 0#1) (w.extractLsb' 0 1 ++ w.extractLsb' 13 3)) := by
  simp only [decode, isTwoWord_iff, BitVec.toNat_eq, toNat_slice, BitVec.toNat_ofNat]
  simp (disch := omega) only [if_neg, if_pos]

theorem decode_iorLit (h : w.toNat / 2 ^ 14 = 0x2CC) :
    decode w w2 = .ok (.iorLit (w.extractLsb' 4 10) (wField (w.extractLsb' 0 4))) := by
  simp only [decode, isTwoWord_iff, BitVec.toNat_eq, toNat_slice, BitVec.toNat_ofNat]
  simp (disch := omega) only [if_neg, if_pos]

theorem decode_movInd (h : w.toNat / 2 ^ 11 = 0x0F00) (h0 : w.toNat / 2 ^ 4 % 2 ^ 3 = 1) :
    decode w w2 = .ok (.movInd (wField (w.extractLsb' 0 4)) (wField (w.extractLsb' 7 4))) := by
  simp only [decode, isTwoWord_iff, BitVec.toNat_eq, toNat_slice, BitVec.toNat_ofNat]
  simp (disch := omega) only [if_neg, if_pos]

end rows

/-- The three fields of the word of a bit instruction (R103): bit number, file address, byte. -/
theorem bitWord_fields {n op bit file byte : Nat} (h : ((op * 2 ^ 3 + bit) * 2 ^ 12 + file) * 2 ^ 1 + byte = n)
    (hbit : bit < 2 ^ 3) (hfile : file < 2 ^ 12) (hbyte : byte < 2 ^ 1) :
    n / 2 ^ 0 % 2 ^ 1 = byte ∧ n / 2 ^ 1 % 2 ^ 12 = file ∧ n / 2 ^ 13 % 2 ^ 3 = bit := by
  omega

/-- A number is the word of a bit instruction with the fields read from it. -/
theorem bitWord_of_fields {n op : Nat} (h : n / 2 ^ 16 = op) :
    ((op * 2 ^ 3 + (n / 2 ^ 0 % 2 ^ 1 * 2 ^ 3 + n / 2 ^ 13 % 2 ^ 3) / 2 ^ 0 % 2 ^ 3) * 2 ^ 12 +
      (n / 2 ^ 1 % 2 ^ 12 * 2 ^ 1 + 0) / 2 ^ 1 % 2 ^ 12) * 2 ^ 1 +
        (n / 2 ^ 0 % 2 ^ 1 * 2 ^ 3 + n / 2 ^ 13 % 2 ^ 3) / 2 ^ 3 % 2 ^ 1 = n := by
  have hbits : ∀ byte bit, byte < 2 → bit < 2 ^ 3 →
      (byte * 2 ^ 3 + bit) / 2 ^ 0 % 2 ^ 3 = bit ∧ (byte * 2 ^ 3 + bit) / 2 ^ 3 % 2 ^ 1 = byte := by omega
  obtain ⟨hbit, hbyte⟩ := hbits (n / 2 ^ 0 % 2 ^ 1) (n / 2 ^ 13 % 2 ^ 3) (by omega) (by omega)
  have hfile : (n / 2 ^ 1 % 2 ^ 12 * 2 ^ 1 + 0) / 2 ^ 1 % 2 ^ 12 = n / 2 ^ 1 % 2 ^ 12 := by omega
  rw [hbit, hbyte, hfile]
  omega

/-- R102 to R105: a one-word instruction is decoded from its word, whatever the next word is. -/
theorem decode_encode_one_word {i : Instr} (hwf : i.wellFormed = true) {w : ProgWord} (w2 : ProgWord) (hw : encode i = [w]) :
    decode w w2 = .ok i := by
  cases i
  all_goals
    simp only [encode, List.cons.injEq, and_true, BitVec.toNat_eq, toNat_append_eq, toNat_slice, BitVec.toNat_ofNat,
      toNat_regField] at hw
    simp only [Instr.wellFormed, Bool.not_eq_true', bit_zero_eq_false_iff] at hwf
  case goto t => simp at hw
  case retfie => rw [BitVec.eq_of_toNat_eq (y := 0x064000#24) hw.symm]; rfl
  case ret => rw [BitVec.eq_of_toNat_eq (y := 0x060000#24) hw.symm]; rfl
  case reset => rw [BitVec.eq_of_toNat_eq (y := 0xFE0000#24) hw.symm]; rfl
  case nop => exact decode_nop w2 (by omega)
  case disi k =>
    rw [decode_disi w2 (by omega)]
    simp only [Except.ok.injEq, Instr.disi.injEq, BitVec.toNat_eq, toNat_slice]
    omega
  case bra n =>
    rw [decode_bra w2 (by omega)]
    simp only [Except.ok.injEq, Instr.bra.injEq, BitVec.toNat_eq, toNat_slice]
    omega
  case pwrsav k =>
    rw [decode_pwrsav w2 (by omega)]
    simp only [Except.ok.injEq, Instr.pwrsav.injEq, BitVec.toNat_eq, toNat_slice]
    omega
  case push f =>
    rw [decode_push w2 (by omega) (by omega)]
    simp only [Except.ok.injEq, Instr.push.injEq, fileAddr, BitVec.toNat_eq, toNat_append_eq, toNat_slice,
      BitVec.toNat_ofNat]
    omega
  case pop f =>
    rw [decode_pop w2 (by omega) (by omega)]
    simp only [Except.ok.injEq, Instr.pop.injEq, fileAddr, BitVec.toNat_eq, toNat_append_eq, toNat_slice,
      BitVec.toNat_ofNat]
    omega
  case movLit k d =>
    rw [decode_movLit w2 (by omega)]
    simp only [Except.ok.injEq, Instr.movLit.injEq, wField_eq_iff, BitVec.toNat_eq, toNat_slice]
    omega
  case movToFile n f =>
    rw [decode_movToFile w2 (by omega)]
    simp only [Except.ok.injEq, Instr.movToFile.injEq, wField_eq_iff, fileAddr, BitVec.toNat_eq, toNat_append_eq, toNat_slice,
      BitVec.toNat_ofNat]
    omega
  case movFromFile f d =>
    rw [decode_movFromFile w2 (by omega)]
    simp only [Except.ok.injEq, Instr.movFromFile.injEq, wField_eq_iff, fileAddr, BitVec.toNat_eq, toNat_append_eq, toNat_slice,
      BitVec.toNat_ofNat]
    omega
  case bset f b =>
    rw [decode_bset w2 (by omega)]
    simp only [Except.ok.injEq, Instr.bset.injEq, BitVec.toNat_eq, toNat_append_eq, toNat_slice,
      BitVec.toNat_ofNat]
    obtain ⟨hB, hF, hL⟩ := bitWord_fields hw (by omega) (by omega) (by omega)
    rw [hB, hF, hL]
    clear hw hB hF hL
    omega
  case bclr f b =>
    rw [decode_bclr w2 (by omega)]
    simp only [Except.ok.injEq, Instr.bclr.injEq, BitVec.toNat_eq, toNat_append_eq, toNat_slice,
      BitVec.toNat_ofNat]
    obtain ⟨hB, hF, hL⟩ := bitWord_fields hw (by omega) (by omega) (by omega)
    rw [hB, hF, hL]
    clear hw hB hF hL
    omega
  case iorLit k n =>
    rw [decode_iorLit w2 (by omega)]
    simp only [Except.ok.injEq, Instr.iorLit.injEq, wField_eq_iff, BitVec.toNat_eq, toNat_slice]
    omega
  case movInd n d =>
    rw [decode_movInd w2 (by omega) (by omega)]
    simp only [Except.ok.injEq, Instr.movInd.injEq, wField_eq_iff, toNat_slice]
    omega

theorem decodeWords_one_word {w : ProgWord} {i : Instr} (h2 : isTwoWord w = false) (h : decode w 0#24 = .ok i)
    (rest : List ProgWord) : decodeWords (w :: rest) = .ok (i, rest) := by
  rw [decodeWords.eq_def]
  simp [h2, h, Except.map]

theorem decodeWords_goto {t : ProgAddr} (ht : t.getLsbD 0 = false) (rest : List ProgWord) :
    decodeWords (encode (.goto t) ++ rest) = .ok (.goto t, rest) := by
  have hw := Laws.isTwoWord_goto t
  have ht' := (bit_zero_eq_false_iff t).1 ht
  have hd := decode_goto (w := 0x04#8 ++ t.extractLsb' 1 15 ++ 0#1) (w2 := 0#17 ++ t.extractLsb' 16 7)
    ((isTwoWord_iff _).1 hw).1 ((isTwoWord_iff _).1 hw).2
    (by simp only [toNat_append_eq, toNat_slice, BitVec.toNat_ofNat]; omega)
  simp only [encode, List.cons_append, List.nil_append, decodeWords, hw, if_true, hd, Except.map]
  simp only [Except.ok.injEq, Prod.mk.injEq, Instr.goto.injEq, and_true, BitVec.toNat_eq, toNat_append_eq, toNat_slice,
    BitVec.toNat_ofNat]
  omega

/-- Settles O1: the first word tells how many words there are (R101), and the row of a word is found by its number. -/
theorem encodeThenDecodeGivesInstruction : Obligations.EncodeThenDecodeGivesInstruction := by
  intro i rest hwf
  by_cases hgoto : ∃ t, i = .goto t
  · obtain ⟨t, rfl⟩ := hgoto
    exact decodeWords_goto (by simpa [Instr.wellFormed] using hwf) rest
  · obtain ⟨w, tail, he, hlen, htwo⟩ := encodeLength i
    have h2 : isTwoWord w = false := by simpa using fun h => hgoto (htwo.1 h)
    obtain rfl : tail = [] := by simpa [h2] using hlen
    rw [he]
    exact decodeWords_one_word h2 (decode_encode_one_word hwf _ he) rest

/-- What `DecodeThenEncodeGivesWords` says of one decoded pair of words. -/
def DecodedFrom (w1 w2 : ProgWord) (i : Instr) : Prop :=
  i.wellFormed = true ∧ (i ≠ .nop → encode i = if isTwoWord w1 then [w1, w2] else [w1]) ∧
    (i = .nop → w1.extractLsb' 16 8 = 0#8)

theorem DecodedFrom.of_one_word {w1 w2 : ProgWord} {i : Instr} (hwf : i.wellFormed = true) (hnop : i ≠ .nop)
    (h2 : ¬ (w1.toNat / 2 ^ 16 = 4 ∧ w1.toNat % 2 = 0)) (he : encode i = [w1]) : DecodedFrom w1 w2 i := by
  rw [← isTwoWord_iff] at h2
  exact ⟨hwf, fun _ => by rw [he, if_neg h2], fun h => absurd h hnop⟩

theorem decodedFrom_of_decode {w1 w2 : ProgWord} {i : Instr} (h : decode w1 w2 = .ok i) : DecodedFrom w1 w2 i := by
  have hlt := w1.isLt
  simp only [decode, isTwoWord_iff, BitVec.toNat_eq, toNat_slice, BitVec.toNat_ofNat] at h
  rw [ite_eq_iff] at h
  obtain ⟨hc, h⟩ | ⟨-, h⟩ := h
  · cases h
    refine .of_one_word rfl nofun (by omega) ?_
    simp only [encode, List.cons.injEq, and_true, BitVec.toNat_eq, toNat_append_eq, toNat_slice, 
      BitVec.toNat_ofNat]
    omega
  rw [ite_eq_iff] at h
  obtain ⟨hc, h⟩ | ⟨-, h⟩ := h
  · cases h
    exact .of_one_word rfl nofun (by omega) (by
      simp only [encode, List.cons.injEq, and_true, BitVec.toNat_eq, BitVec.toNat_ofNat]; omega)
  rw [ite_eq_iff] at h
  obtain ⟨hc, h⟩ | ⟨-, h⟩ := h
  · obtain ⟨hc2, h⟩ | ⟨-, h⟩ := ite_eq_iff.1 h
    · cases h
      refine ⟨by rw [Instr.wellFormed, append_zero_bit_zero]; rfl, fun _ => ?_, nofun⟩
      rw [if_pos ((isTwoWord_iff w1).2 hc)]
      simp only [encode, List.cons.injEq, and_true, BitVec.toNat_eq, toNat_append_eq, toNat_slice, BitVec.toNat_ofNat]
      omega
    · cases h
  rw [ite_eq_iff] at h
  obtain ⟨hc, h⟩ | ⟨-, h⟩ := h
  · cases h
    refine .of_one_word rfl nofun (by omega) ?_
    simp only [encode, List.cons.injEq, and_true, BitVec.toNat_eq, toNat_append_eq, toNat_slice, 
      BitVec.toNat_ofNat]
    omega
  rw [ite_eq_iff] at h
  obtain ⟨hc, h⟩ | ⟨-, h⟩ := h
  · cases h
    exact .of_one_word rfl nofun (by omega) (by
      simp only [encode, List.cons.injEq, and_true, BitVec.toNat_eq, BitVec.toNat_ofNat]; omega)
  rw [ite_eq_iff] at h
  obtain ⟨hc, h⟩ | ⟨-, h⟩ := h
  · cases h
    exact .of_one_word rfl nofun (by omega) (by
      simp only [encode, List.cons.injEq, and_true, BitVec.toNat_eq, BitVec.toNat_ofNat]; omega)
  rw [ite_eq_iff] at h
  obtain ⟨hc, h⟩ | ⟨-, h⟩ := h
  · cases h
    refine .of_one_word rfl nofun (by omega) ?_
    simp only [encode, List.cons.injEq, and_true, BitVec.toNat_eq, toNat_append_eq, toNat_slice, 
      BitVec.toNat_ofNat]
    omega
  rw [ite_eq_iff] at h
  obtain ⟨hc, h⟩ | ⟨-, h⟩ := h
  · cases h
    refine .of_one_word (by simp only [Instr.wellFormed, fileAddr, append_zero_bit_zero, Bool.not_false]) nofun (by omega) ?_
    simp only [encode, fileAddr, List.cons.injEq, and_true, BitVec.toNat_eq, toNat_append_eq, toNat_slice, 
      BitVec.toNat_ofNat]
    omega
  rw [ite_eq_iff] at h
  obtain ⟨hc, h⟩ | ⟨-, h⟩ := h
  · cases h
    refine .of_one_word (by simp only [Instr.wellFormed, fileAddr, append_zero_bit_zero, Bool.not_false]) nofun (by omega) ?_
    simp only [encode, fileAddr, List.cons.injEq, and_true, BitVec.toNat_eq, toNat_append_eq, toNat_slice, 
      BitVec.toNat_ofNat]
    omega
  rw [ite_eq_iff] at h
  obtain ⟨hc, h⟩ | ⟨-, h⟩ := h
  · cases h
    refine ⟨rfl, nofun, fun _ => ?_⟩
    rw [BitVec.toNat_eq, toNat_slice, BitVec.toNat_ofNat]
    omega
  rw [ite_eq_iff] at h
  obtain ⟨hc, h⟩ | ⟨-, h⟩ := h
  · cases h
    refine .of_one_word rfl nofun (by omega) ?_
    simp only [encode, List.cons.injEq, and_true, BitVec.toNat_eq, toNat_append_eq, toNat_slice, toNat_regField,
      wField_val, BitVec.toNat_ofNat]
    omega
  rw [ite_eq_iff] at h
  obtain ⟨hc, h⟩ | ⟨-, h⟩ := h
  · cases h
    refine .of_one_word (by simp only [Instr.wellFormed, fileAddr, append_zero_bit_zero, Bool.not_false]) nofun (by omega) ?_
    simp only [encode, fileAddr, List.cons.injEq, and_true, BitVec.toNat_eq, toNat_append_eq, toNat_slice, toNat_regField,
      wField_val, BitVec.toNat_ofNat]
    omega
  rw [ite_eq_iff] at h
  obtain ⟨hc, h⟩ | ⟨-, h⟩ := h
  · cases h
    refine .of_one_word (by simp only [Instr.wellFormed, fileAddr, append_zero_bit_zero, Bool.not_false]) nofun (by omega) ?_
    simp only [encode, fileAddr, List.cons.injEq, and_true, BitVec.toNat_eq, toNat_append_eq, toNat_slice, toNat_regField,
      wField_val, BitVec.toNat_ofNat]
    omega
  rw [ite_eq_iff] at h
  obtain ⟨hc, h⟩ | ⟨-, h⟩ := h
  · cases h
    refine .of_one_word (by simp only [Instr.wellFormed, append_zero_bit_zero, Bool.not_false]) nofun (by omega) ?_
    simp only [encode, List.cons.injEq, and_true, BitVec.toNat_eq, toNat_append_eq, toNat_slice, 
      BitVec.toNat_ofNat]
    exact bitWord_of_fields (by omega)
  rw [ite_eq_iff] at h
  obtain ⟨hc, h⟩ | ⟨-, h⟩ := h
  · cases h
    refine .of_one_word (by simp only [Instr.wellFormed, append_zero_bit_zero, Bool.not_false]) nofun (by omega) ?_
    simp only [encode, List.cons.injEq, and_true, BitVec.toNat_eq, toNat_append_eq, toNat_slice, 
      BitVec.toNat_ofNat]
    exact bitWord_of_fields (by omega)
  rw [ite_eq_iff] at h
  obtain ⟨hc, h⟩ | ⟨-, h⟩ := h
  · cases h
    refine .of_one_word rfl nofun (by omega) ?_
    simp only [encode, List.cons.injEq, and_true, BitVec.toNat_eq, toNat_append_eq, toNat_slice, toNat_regField,
      wField_val, BitVec.toNat_ofNat]
    omega
  rw [ite_eq_iff] at h
  obtain ⟨hc, h⟩ | ⟨-, h⟩ := h
  · cases h
    refine .of_one_word rfl nofun (by omega) ?_
    simp only [encode, List.cons.injEq, and_true, BitVec.toNat_eq, toNat_append_eq, toNat_slice, toNat_regField,
      wField_val, BitVec.toNat_ofNat]
    omega
  cases h

/-- Settles O2: every row but NOP takes all bits of its words into the fields of the instruction. -/
theorem decodeThenEncodeGivesWords : Obligations.DecodeThenEncodeGivesWords :=
  fun _ _ _ => decodedFrom_of_decode

/-- Settles O3: each word is evaluated. -/
theorem sampleWordsDecode : Obligations.SampleWordsDecode := by
  unfold Obligations.SampleWordsDecode
  decide

end Sys2Proof
end

section
/-!
PROOFS. What the shared operations do to the marks of the slot and to WRINH, and what every instruction leaves alone.
-/

namespace Sys2Proof.Machine

variable (s : State)

/-! ### Marks of the slot -/

/-- The cycles, the DISI mark and the mask of a slot: what no access of an instruction changes. -/
def SameMarks (p q : Slot) : Prop := q.cycles = p.cycles ∧ q.disi = p.disi ∧ q.masked = p.masked

theorem SameMarks.refl (p : Slot) : SameMarks p p := ⟨rfl, rfl, rfl⟩

theorem SameMarks.trans {p q r : Slot} (h : SameMarks p q) (h' : SameMarks q r) : SameMarks p r := by
  obtain ⟨h1, h2, h3⟩ := h
  obtain ⟨h1', h2', h3'⟩ := h'
  exact ⟨h1'.trans h1, h2'.trans h2, h3'.trans h3⟩

theorem storeSfr_marks (r : Sfr) (v : Word) : SameMarks s.slot (s.storeSfr r v).slot := by
  cases r <;> simp [State.storeSfr, SameMarks]

theorem writeWord_marks (a : DataAddr) (v : Word) : SameMarks s.slot (s.writeWord a v).slot := by
  obtain ⟨-, h⟩ | ⟨-, h⟩ | ⟨r, -, -, h⟩ | ⟨-, -, h⟩ := writeWord_cases s a v <;> rw [h]
  · exact .refl _
  · exact .refl _
  · exact storeSfr_marks s r v
  · rw [putRamWord_slot]; exact .refl _

theorem push16_marks (v : Word) : SameMarks s.slot (s.push16 v).slot := by
  have h := writeWord_marks (s.checkStackEA (s.getW 15)) (s.getW 15) v
  simp only [SameMarks, checkStackEA_slot] at h
  simpa [State.push16, SameMarks] using h

theorem pushFrame_marks : SameMarks s.slot s.pushFrame.slot :=
  (push16_marks { s with pcbuf := s.pc, srlbuf := s.srl } _).trans (push16_marks _ _)

theorem enter_slot (src : Source) : (s.enter src).slot = s.pushFrame.slot := by
  simp [State.enter]

theorem enter_marks (src : Source) : SameMarks s.slot (s.enter src).slot := by
  rw [enter_slot]
  exact pushFrame_marks s

/-! ### WRINH -/

@[simp] theorem storeSfr_wrinh (r : Sfr) (v : Word) : (s.storeSfr r v).wrinh = s.wrinh := by
  cases r <;> simp [State.storeSfr]

@[simp] theorem swrite_wrinh (r : Sfr) (v : Word) : (s.swrite r v).wrinh = s.wrinh := storeSfr_wrinh s r v

/-- Only an odd address makes a word write inhibit the writes after it. -/
theorem writeWord_wrinh {a : DataAddr} (ha : a.getLsbD 0 = false) (v : Word) : (s.writeWord a v).wrinh = s.wrinh := by
  obtain ⟨h', -⟩ | ⟨-, h⟩ | ⟨r, -, -, h⟩ | ⟨-, -, h⟩ := writeWord_cases s a v
  · rw [ha] at h'; cases h'
  all_goals rw [h]
  · exact swrite_wrinh s r v
  · exact putRamWord_wrinh s a v

@[simp] theorem push16_wrinh (v : Word) : (s.push16 v).wrinh = s.wrinh := by
  have h := writeWord_wrinh (s.checkStackEA (s.getW 15)) (getW_15_even s) v
  simpa [State.push16, show (Trap.stackError == Trap.addressError) = false from rfl] using h

@[simp] theorem pushFrame_wrinh : s.pushFrame.wrinh = s.wrinh := by
  simp [State.pushFrame]

@[simp] theorem enter_wrinh (src : Source) : (s.enter src).wrinh = s.wrinh := by
  simp [State.enter]

@[simp] theorem enterSlot_wrinh (src : Source) : (s.enterSlot src).wrinh = false := by
  simp [State.enterSlot]

/-! ### The trap marks after the events -/

/-- An oscillator failure is in effect in a slot of `n` cycles: raised in it, or found by the FSCM in one of its cycles (R196). -/
def State.oscFails (s : State) (n : Nat) : Bool :=
  s.slot.raised.osc || ((takeCycles n s.inputs).1.any CycleInput.clockFail && s.cfg.fscmEnabled)

/-- The state in which the raised traps of a slot take effect. -/
def State.beforePost (s : State) (n : Nat) : State :=
  { s with inputs := (takeCycles n s.inputs).2
           slot := { s.slot with raised := { s.slot.raised with osc := s.oscFails n } } }

theorem events_eq (n : Nat) :
    s.events n = (takeCycles n s.inputs).1.foldl State.cycleEvents (s.beforePost n).postTraps := by
  unfold State.events State.beforePost State.oscFails
  by_cases h : ((takeCycles n s.inputs).1.any CycleInput.clockFail && s.cfg.fscmEnabled) = true
  · simp [h, TrapSet.insert]
  · simp [h]

@[simp] theorem events_slot (n : Nat) :
    (s.events n).slot = { s.slot with raised := { s.slot.raised with osc := s.oscFails n } } := by
  rw [events_eq, foldl_keeps State.slot _ (by simp), postTraps_slot]
  rfl

@[simp] theorem events_inputs (n : Nat) : (s.events n).inputs = (takeCycles n s.inputs).2 := by
  rw [events_eq, foldl_keeps State.inputs _ (by simp), postTraps_inputs]
  rfl

/-- The inputs that remain are some of those there were. -/
theorem takeCycles_subset (n : Nat) (ins : List Input) : (takeCycles n ins).2 ⊆ ins := by
  induction ins generalizing n with
  | nil => cases n <;> simp [takeCycles]
  | cons i rest ih =>
    cases n with
    | zero => simp [takeCycles]
    | succ n =>
      cases i with
      | reset => simp [takeCycles]
      | cycle c => exact List.Subset.trans (ih n) (List.subset_cons_self _ _)

/-! ### The count -/

theorem count_of_disi {s : State} (n : Nat) (h : s.slot.disi = true) :
    s.count n = { s with slot := { s.slot with masked := true } } := by
  rw [State.count, if_pos h]

theorem count_of_not_disi {s : State} (n : Nat) (h : s.slot.disi = false) :
    s.count n = { s with
      slot := { s.slot with masked := s.disiBit && decide (n ≤ s.disicnt.toNat) }
      disicnt := BitVec.ofNat 14 (s.disicnt.toNat - n)
      intcon2 := if s.disicnt.toNat ≤ n then setBit s.intcon2 14 false else s.intcon2 } := by
  rw [State.count, if_neg (by simp [h])]

/-- The count changes no mark of the slot but the mask. -/
theorem count_slot (n : Nat) : (s.count n).slot = { s.slot with masked := (s.count n).slot.masked } := by
  cases h : s.slot.disi
  · rw [count_of_not_disi n h]
  · rw [count_of_disi n h]

/-! ### Byte writes -/

/-- A software write of one byte of a register that is not refused is a store of the register and a note of it. -/
theorem swriteByte_ok {s t : State} {r : Sfr} {upper : Bool} {b : Byte} (h : s.swriteByte r upper b = .ok t) :
    t = (s.storeSfr r (withLane upper (s.sfrValue r) b)).noteWrite r
      (laneMask upper &&& ~~~withLane upper (s.sfrValue r) b) := by
  unfold State.swriteByte at h
  split at h
  · cases h
  split at h
  · cases h
  split at h
  · cases h
  · cases h; rfl

/-- The three things a byte write that is not refused can do. -/
theorem writeByte_cases {s t : State} {a : DataAddr} {b : Byte} (h : s.writeByte a b = .ok t) :
    t = s ∨ (s.wrinh = false ∧ t = s.putRamByte a b) ∨
      ∃ r v z, s.wrinh = false ∧ s.cfg.dataImplemented a = true ∧ s.cfg.sfrAt a = some r ∧
        t = (s.storeSfr r v).noteWrite r z := by
  unfold State.writeByte at h
  split at h
  · cases h; exact .inl rfl
  next hw =>
  obtain ⟨hw, hi⟩ : s.wrinh = false ∧ s.cfg.dataImplemented a = true := by simpa using hw
  split at h
  · next r hr => exact .inr (.inr ⟨r, _, _, hw, hi, hr, swriteByte_ok h⟩)
  · cases h; exact .inr (.inl ⟨hw, rfl⟩)

/-! ### What a data-space write can do -/

/-- `t` is `s` after at most one write in data space: nothing, an address error, bytes of memory, or one register. -/
inductive State.Write (s : State) : State → Prop where
  | none : Write s s
  | odd : Write s (s.raise .addressError)
  | ramWord (hw : s.wrinh = false) (a : DataAddr) (v : Word) : Write s (s.putRamWord a v)
  | ramByte (hw : s.wrinh = false) (a : DataAddr) (b : Byte) : Write s (s.putRamByte a b)
  | sfr (hw : s.wrinh = false) (r : Sfr) (v z : Word) : Write s ((s.storeSfr r v).noteWrite r z)
  | clearTrapr (hw : s.wrinh = false) : Write s s.clearTrapr

theorem writeWord_write (a : DataAddr) (v : Word) : s.Write (s.writeWord a v) := by
  obtain ⟨-, h⟩ | ⟨-, h⟩ | ⟨r, -, hw, h⟩ | ⟨-, hw, h⟩ := writeWord_cases s a v <;> rw [h]
  · exact .odd
  · exact .none
  · exact .sfr hw r v _
  · exact .ramWord hw a v

theorem storeWord_write {s t : State} {a : DataAddr} {v : Word} (h : s.storeWord a v = .ok t) : s.Write t :=
  (storeWord_ok h).2 ▸ writeWord_write s a v

theorem writeByte_write {s t : State} {a : DataAddr} {b : Byte} (h : s.writeByte a b = .ok t) : s.Write t := by
  obtain rfl | ⟨hw, rfl⟩ | ⟨r, v, z, hw, -, -, rfl⟩ := writeByte_cases h
  · exact .none
  · exact .ramByte hw a b
  · exact .sfr hw r v z

namespace State.Write

variable {s t : State} (h : s.Write t)

include h

theorem cfg : t.cfg = s.cfg := by cases h <;> simp [State.clearTrapr]
theorem pc : t.pc = s.pc := by cases h <;> simp [State.clearTrapr]
theorem pcBeyond : t.pcBeyond = s.pcBeyond := by cases h <;> simp [State.clearTrapr]
theorem pcbuf : t.pcbuf = s.pcbuf := by cases h <;> simp [State.clearTrapr]
theorem srlbuf : t.srlbuf = s.srlbuf := by cases h <;> simp [State.clearTrapr]
theorem mode : t.mode = s.mode := by cases h <;> simp [State.clearTrapr]
theorem skidStack : t.skidStack = s.skidStack := by cases h <;> simp [State.clearTrapr]
theorem skidMath : t.skidMath = s.skidMath := by cases h <;> simp [State.clearTrapr]
theorem stallOsc : t.stallOsc = s.stallOsc := by cases h <;> simp [State.clearTrapr]
theorem stallAddr : t.stallAddr = s.stallAddr := by cases h <;> simp [State.clearTrapr]
theorem pinprev : t.pinprev = s.pinprev := by cases h <;> simp [State.clearTrapr]
theorem prog : t.prog = s.prog := by cases h <;> simp [State.clearTrapr]
theorem inputs : t.inputs = s.inputs := by cases h <;> simp [State.clearTrapr]
theorem epoch : t.epoch = s.epoch := by cases h <;> simp [State.clearTrapr]

end State.Write


/-! ### Accesses that store nothing in data space -/

/-- `t` is `s` after reads and writes of working registers: nothing else differs but the raised traps, WRINH and the draws of free
values. Of the working registers only those of `D` differ, and an address error is marked exactly where it inhibits. -/
structure State.Accessed (D : WReg → Prop) (s t : State) : Prop where
  same : ∃ w r h f, t = { s with w := w, slot := { s.slot with raised := r }, wrinh := h, freeCount := f }
  otherW : ∀ n, ¬ D n → t.getW n = s.getW n
  inhibits : s.slot.raised.addr = s.wrinh → t.slot.raised.addr = t.wrinh

namespace State.Accessed

variable {D : WReg → Prop} {s t u : State}

theorem refl (D : WReg → Prop) (s : State) : Accessed D s s :=
  ⟨⟨_, _, _, _, rfl⟩, fun _ _ => rfl, id⟩

theorem trans (h : Accessed D s t) (h' : Accessed D t u) : Accessed D s u := by
  refine ⟨?_, fun n hn => (h'.otherW n hn).trans (h.otherW n hn), fun e => h'.inhibits (h.inhibits e)⟩
  obtain ⟨_, _, _, _, rfl⟩ := h.same
  obtain ⟨_, _, _, _, rfl⟩ := h'.same
  exact ⟨_, _, _, _, rfl⟩

theorem raise (D : WReg → Prop) (s : State) (x : Trap) : Accessed D s (s.raise x) := by
  refine ⟨⟨_, _, _, _, rfl⟩, fun _ _ => rfl, fun h => ?_⟩
  cases x <;> simp [TrapSet.insert, h]

theorem raiseIf (D : WReg → Prop) (s : State) (c : Bool) (x : Trap) : Accessed D s (s.raiseIf c x) := by
  cases c
  · exact refl D s
  · exact raise D s x

theorem checkStackEA (D : WReg → Prop) (s : State) (a : DataAddr) : Accessed D s (s.checkStackEA a) :=
  raiseIf D s _ _

theorem drawWord (D : WReg → Prop) (s : State) : Accessed D s s.drawWord.2 :=
  ⟨⟨_, _, _, _, rfl⟩, fun _ _ => rfl, id⟩

theorem setW {n : WReg} (hn : D n) (s : State) (v : Word) : Accessed D s (s.setW n v) := by
  have hput : Accessed D s (s.putW n v) := by
    refine ⟨⟨_, _, _, _, rfl⟩, fun m hm => ?_, id⟩
    rw [getW_putW, if_neg (fun e : m = n => hm (e ▸ hn))]
  exact hput.trans (raiseIf D _ _ _)

theorem readWord (D : WReg → Prop) (s : State) (a : DataAddr) : Accessed D s (s.readWord a).2 := by
  obtain h | h | ⟨-, h⟩ := readWord_snd_cases s a <;> rw [h]
  · exact refl D s
  · exact drawWord D s
  · exact (raise D s _).trans (drawWord D _)

theorem readByte (D : WReg → Prop) (s : State) (a : DataAddr) : Accessed D s (s.readByte a).2 := by
  unfold State.readByte State.readSfr
  split
  · exact (raise D s _).trans (drawWord D _)
  split
  · split
    · exact refl D s
    · exact drawWord D s
  · exact refl D s

theorem pop16 (h15 : D 15) (s : State) : Accessed D s s.pop16.2 :=
  ((setW h15 s _).trans (checkStackEA D _ _)).trans (readWord D _ _)

theorem popFrame (h15 : D 15) (s : State) : Accessed D s s.popFrame.2.2 :=
  (pop16 h15 s).trans (pop16 h15 _)

theorem readIndirect (D : WReg → Prop) (s : State) (n : WReg) : Accessed D s (s.readIndirect n).2 := by
  unfold State.readIndirect
  split
  · exact (checkStackEA D s _).trans (readWord D _ _)
  · exact readWord D s _

end State.Accessed

/-! ### What a completed instruction did -/

/-- The registers an instruction may change besides W15, when it raises an address error: its destination. -/
def Instr.mayLoad (i : Instr) (n : WReg) : Prop := n = 15 ∨ (∃ f, i = .movFromFile f n) ∨ ∃ m, i = .movInd m n

/-- `t` is `s` but for the PC and the cycles: the end of an instruction. -/
def State.Ended (s t : State) : Prop :=
  ∃ p b c, t = { s with pc := p, pcBeyond := b, slot := { s.slot with cycles := c } }

theorem advance_took_ended (s : State) (c : Nat) : s.Ended (s.advance.took c) := ⟨_, _, _, rfl⟩

/-- How an instruction that completes takes the machine from `s` to `t`: by reads, at most one write in data space and the update of
a register; a few instructions do more than that. -/
inductive State.Ran (s : State) : Instr → State → Prop where
  | plain {i : Instr} {s1 s2 s3 t : State} (reads : State.Accessed (Instr.mayLoad i) s.begin s1) (write : s1.Write s2)
      (update : State.Accessed (Instr.mayLoad i) s2 s3) (quiet : s3.slot.raised.addr = s2.slot.raised.addr)
      (ended : s3.Ended t) : Ran s i t
  | movLit (k : Word) (d : WReg) : Ran s (.movLit k d) ((s.begin.setW d k).advance.took 1)
  | iorLit (k : BitVec 10) (n : WReg) :
      Ran s (.iorLit k n) ({ s.begin.setW n (s.getW n ||| lit10Word k) with
        sr := srAfterIor s.sr (s.getW n ||| lit10Word k) }.advance.took 1)
  | disi (k : BitVec 14) :
      Ran s (.disi k) ({ { s.begin with disicnt := k }.setDisiBit (k != 0) with
        slot := { Slot.fresh with disi := true } }.advance.took 1)
  | retfie : Ran s .retfie (s.begin.returnFromException.took 3)
  | reset : Ran s .reset ((s.deviceReset .software).took 1)
  | pwrsav (k : BitVec 1) : Ran s (.pwrsav k) ({ s.begin.advance with mode := if k = 0 then .sleep else .idle }.took 1)

theorem setW_raised_addr (s : State) (n : WReg) (v : Word) : (s.setW n v).slot.raised.addr = s.slot.raised.addr := by
  rw [setW_slot]
  dsimp only
  split <;> rfl

/-- An instruction that stores nothing runs by reads and the update of a register. -/
theorem State.Ran.of_load {i : Instr} {s s1 t : State} {d : WReg} {v : Word} (hd : Instr.mayLoad i d)
    (reads : State.Accessed (Instr.mayLoad i) s.begin s1) (ended : (s1.setW d v).Ended t) : s.Ran i t :=
  .plain reads .none (.setW hd _ _) (setW_raised_addr _ _ _) ended

/-- An instruction whose last access is a write in data space. -/
theorem State.Ran.of_store {i : Instr} {s s1 t : State} {x : Except Refusal State}
    (reads : State.Accessed (Instr.mayLoad i) s.begin s1) (write : ∀ u, x = .ok u → s1.Write u)
    (h : completeStore x = .next t) : s.Ran i t := by
  obtain ⟨u, hu, rfl⟩ := completeStore_next.1 h
  exact .plain reads (write u hu) (.refl _ _) rfl (advance_took_ended _ _)

theorem jump_ended (s : State) (p : ProgAddr) (c : Nat) :
    (s.raiseIf (!s.cfg.progImplemented p) .addressError).Ended ((s.jump p).took c) := ⟨_, _, _, rfl⟩

theorem modifyByte_write {s t : State} {a : DataAddr} {f : Byte → Byte} (h : s.modifyByte a f = .ok t) :
    (s.readByte a).2.Write t :=
  writeByte_write (modifyByte_ok h).2

/-- A push is the check of the address, a word write, the check of the wrap, and the update of W15. -/
theorem push16_shape (s : State) (v : Word) :
    ∃ s1 c w, s1 = (s.checkStackEA s.sp).writeWord s.sp v ∧ s.push16 v = (s1.raiseIf c .stackError).setW 15 w :=
  ⟨_, _, _, rfl, rfl⟩

theorem exec_bclr (f : BitVec 13) (b : BitVec 4) (s : State) :
    exec (.bclr f b) s = completeStore (if s.namesTrapr (bitByteAddr f b) b then .ok s.begin.clearTrapr
      else s.begin.modifyByte (bitByteAddr f b) (fun x => x &&& ~~~bitMask b)) := rfl

theorem mayLoad_15 (i : Instr) : Instr.mayLoad i 15 := .inl rfl

/-- Every instruction that completes ran in one of the ways of `Ran`. -/
theorem ran_of_exec {i : Instr} {s t : State} (h : exec i s = .next t) : s.Ran i t := by
  cases i with
  | disi k => cases h; exact .disi k
  | retfie => cases h; exact .retfie
  | goto p => cases h; exact .plain (.raiseIf _ _ _ _) .none (.refl _ _) rfl (jump_ended _ _ _)
  | bra n => cases h; exact .plain (.raiseIf _ _ _ _) .none (.refl _ _) rfl (jump_ended _ _ _)
  | ret => cases h; exact .plain (.popFrame (mayLoad_15 _) _) .none (.refl _ _) rfl ⟨_, _, _, rfl⟩
  | reset => cases h; exact .reset
  | pwrsav k => cases h; exact .pwrsav k
  | push f =>
    obtain ⟨u, hu, rfl⟩ := completeStore_next.1 h
    obtain ⟨-, rfl⟩ := pushWord_ok hu
    obtain ⟨s1, c, w, hs1, hpush⟩ := push16_shape (s.begin.readWord f).2 (s.begin.readWord f).1
    rw [hpush]
    refine .plain ((State.Accessed.readWord _ _ _).trans (.checkStackEA _ _ _)) (hs1 ▸ writeWord_write _ _ _)
      ((State.Accessed.raiseIf _ _ c _).trans (.setW (mayLoad_15 _) _ w)) ?_ (advance_took_ended _ _)
    rw [setW_raised_addr]
    cases c <;> rfl
  | pop f => exact .of_store (.pop16 (mayLoad_15 _) _) (fun _ => storeWord_write) h
  | nop => cases h; exact .plain (.refl _ _) .none (.refl _ _) rfl (advance_took_ended _ _)
  | movLit k d => cases h; exact .movLit k d
  | movToFile n f => exact .of_store (.refl _ _) (fun _ => storeWord_write) h
  | movFromFile f d => cases h; exact .of_load (.inr (.inl ⟨f, rfl⟩)) (.readWord _ _ _) (advance_took_ended _ _)
  | bset f b => exact .of_store (.readByte _ _ _) (fun _ => modifyByte_write) h
  | bclr f b =>
    rw [exec_bclr] at h
    split at h
    · exact .of_store (.refl _ _) (by rintro _ ⟨⟩; exact .clearTrapr rfl) h
    · exact .of_store (.readByte _ _ _) (fun _ => modifyByte_write) h
  | iorLit k n => cases h; exact .iorLit k n
  | movInd m d => cases h; exact .of_load (.inr (.inr ⟨m, rfl⟩)) (.readIndirect _ _ _) (advance_took_ended _ _)

end Sys2Proof.Machine
end

section
/-!
PROOFS. The step of the machine: what it runs (R210), what every step keeps, and the stuck CPU (R202).
-/

namespace Sys2Proof.Machine

/-! ### What no instruction changes -/

/-- The device, program memory and the inputs to come are the same. -/
def SameSupply (s t : State) : Prop := t.cfg = s.cfg ∧ t.prog = s.prog ∧ t.inputs = s.inputs

theorem SameSupply.refl (s : State) : SameSupply s s := ⟨rfl, rfl, rfl⟩

theorem SameSupply.trans {s t u : State} (h : SameSupply s t) (h' : SameSupply t u) : SameSupply s u := by
  obtain ⟨h1, h2, h3⟩ := h
  obtain ⟨h1', h2', h3'⟩ := h'
  exact ⟨h1'.trans h1, h2'.trans h2, h3'.trans h3⟩

theorem State.Accessed.supply {D : WReg → Prop} {s t : State} (h : State.Accessed D s t) : SameSupply s t := by
  obtain ⟨_, _, _, _, rfl⟩ := h.same
  exact .refl _

theorem State.Write.supply {s t : State} (h : s.Write t) : SameSupply s t := ⟨h.cfg, h.prog, h.inputs⟩

theorem State.Ended.supply {s t : State} (h : s.Ended t) : SameSupply s t := by
  obtain ⟨_, _, _, rfl⟩ := h
  exact .refl _

theorem exec_supply {i : Instr} {s t : State} (h : exec i s = .next t) : SameSupply s t := by
  cases ran_of_exec h with
  | plain reads write update quiet ended =>
    exact ((reads.supply.trans write.supply).trans update.supply).trans ended.supply
  | movLit k d => simp [SameSupply]
  | iorLit k n => simp [SameSupply]
  | disi k => exact .refl _
  | retfie => simp [SameSupply, State.returnFromException]
  | reset => exact .refl _
  | pwrsav k => exact .refl _

theorem perform_supply {s t : State} {x : CpuAction} (h : s.perform x = .ok t) : SameSupply s t := by
  have hcheck : ∀ a, SameSupply s (s.checkAddr a) := by
    rintro (a | n) <;> simp [State.checkAddr, SameSupply]
  cases x with
  | setW n v => cases h; simp [SameSupply]
  | moveW15 n => cases h; simp [SameSupply]
  | setFlags v => cases h; simp [SameSupply]
  | setRepeat b => cases h; exact .refl _
  | setPsv b => cases h; split <;> simp [SameSupply]
  | readWord a => cases h; exact (hcheck a).trans (by simp [SameSupply])
  | readByte a => cases h; exact (hcheck a).trans (by simp [SameSupply])
  | writeWord a v => exact (hcheck a).trans (storeWord_write h).supply
  | writeByte a b => exact (hcheck a).trans (writeByte_write h).supply
  | indirectBit a => cases h; exact (hcheck a).trans (by simp [SameSupply, State.checkIndirectBit])
  | divide d => cases h; simp [SameSupply, State.checkDivisor]
  | orIplIntoSrl => cases h; split <;> simp [SameSupply, State.orIplIntoSrl]
  | jumpLiteral t => cases h; simp [SameSupply, State.jump]
  | setPc t => cases h; exact .refl _

theorem runAnswer_supply {s t : State} {a : CpuAnswer} (h : s.runAnswer a = .ok t) : SameSupply s t := by
  obtain ⟨u, hu, rfl⟩ := runAnswer_ok h
  have hall := performAll_keeps (P := SameSupply) .refl (fun _ _ _ => .trans) (fun _ _ _ => perform_supply) _ _ _ hu
  exact hall

/-! ### EXECUTE -/

/-- A word outside the opcode table completes as a CPU_STEP answers (R107). -/
theorem executeExternal_next {e : DecodeError} {w : ProgWord} {s t : State} (h : executeExternal e w s = .next t) :
    ∃ a, s.runAnswer a = .ok t := by
  cases e with
  | unknownWord =>
    unfold executeExternal at h
    cases hc : Config.cpuStep w s with
    | none => simp [hc] at h
    | some a =>
      cases hr : s.runAnswer a with
      | ok u =>
        obtain rfl : u = t := by simpa [hc, hr] using h
        exact ⟨a, hr⟩
      | error r => simp [hc, hr] at h
  | gotoSecondWord => cases h
  | truncated => cases h

/-- What the slot executes: the decoded instruction, or the answer of a CPU_STEP (R107). -/
theorem execute_cases {s t : State} (h : s.execute = .next t) :
    (∃ i, decode s.fetch.1 s.fetch.2.1 = .ok i ∧ exec i s.fetch.2.2 = .next t) ∨
      ∃ a, s.fetch.2.2.runAnswer a = .ok t := by
  unfold State.execute at h
  split at h
  · exact .inr (executeExternal_next h)
  · next i hi => exact .inl ⟨i, hi, h⟩

/-- A read of program memory draws a free value, and does nothing else. -/
theorem progRead_snd_cases (s : State) (a : ProgAddr) : ∃ k, (s.progRead a).2 = { s with freeCount := k } := by
  unfold State.progRead
  split
  · exact ⟨_, rfl⟩
  · exact ⟨_, rfl⟩

/-- The fetch of a two-word instruction, and of another. -/
theorem fetch_snd (s : State) :
    s.fetch.2.2 = if isTwoWord (s.progRead s.pc).1 then
      (if pastTop s.pc 2 then (s.progRead s.pc).2.drawProg else (s.progRead s.pc).2.progRead (s.pc + 2)).2
    else (s.progRead s.pc).2 := by
  unfold State.fetch
  dsimp only
  split <;> rfl

/-- A fetch draws free values, and does nothing else. -/
theorem fetch_snd_cases (s : State) :
    ∃ k, s.fetch.2.2 = { s with freeCount := k } := by
  obtain ⟨k, hk⟩ := progRead_snd_cases s s.pc
  rw [fetch_snd]
  split
  · split
    · exact ⟨_, by rw [hk]; rfl⟩
    · obtain ⟨k', hk'⟩ := progRead_snd_cases (s.progRead s.pc).2 (s.pc + 2)
      exact ⟨k', by rw [hk', hk]⟩
  · exact ⟨k, hk⟩

theorem execute_supply {s t : State} (h : s.execute = .next t) : SameSupply s t := by
  obtain ⟨k, hk⟩ := fetch_snd_cases s
  obtain ⟨i, -, he⟩ | ⟨a, ha⟩ := execute_cases h
  · have hs := exec_supply he
    rw [hk] at hs
    exact hs
  · have hs := runAnswer_supply ha
    rw [hk] at hs
    exact hs

/-! ### What a step is -/

/-- How a step that completes goes: the reset from outside, or a slot whose EXECUTE left `u` (R210). -/
inductive State.StepsTo (s : State) : State → Prop where
  | outside {rest : List Input} (h : s.inputs = .reset :: rest) :
      StepsTo s ({ s with inputs := rest }.deviceReset .powerOnOrExternal)
  | idle (h : s.SlotNext) (hx : s.executes = false) : StepsTo s s.begin.endSlot
  | unimplemented (h : s.SlotNext) (hx : s.executes = true) (hpc : s.pc.getLsbD 0 = false) (hi : s.pcImplemented = false) :
      StepsTo s s.unimplementedSlot.endSlot
  | executed (h : s.Fetches) {u : State} (he : s.execute = .next u) : StepsTo s u.tickSkid.endSlot

/-- What follows EXECUTE in a slot: the skid tick and steps 2 to 6, unless the instruction stopped the machine. -/
def finishSlot : Host.Outcome State Fault Refusal → Host.Outcome State Fault Refusal
  | .next t => .next t.tickSkid.endSlot
  | .fault f => .fault f
  | .refused r => .refused r

/-- The step, where no reset comes from outside. -/
theorem step_slot {s : State} (h : s.SlotNext) :
    step s = if s.executes = false then .next s.begin.endSlot
      else if s.pc.getLsbD 0 then .fault .oddProgramCounter
      else if s.pcImplemented = false then .next s.unimplementedSlot.endSlot
      else finishSlot s.execute := by
  unfold step
  split
  · next rest hr => exact absurd (by rw [hr]; rfl) h
  · rfl

theorem step_outside {s : State} {rest : List Input} (h : s.inputs = .reset :: rest) :
    step s = .next ({ s with inputs := rest }.deviceReset .powerOnOrExternal) := by
  unfold step
  rw [h]

theorem slotNext_or_reset (s : State) : s.SlotNext ∨ ∃ rest, s.inputs = .reset :: rest := by
  unfold State.SlotNext
  rcases s.inputs with _ | ⟨_ | _, rest⟩ <;> simp

theorem step_fetches {s : State} (h : s.Fetches) : step s = finishSlot s.execute := by
  obtain ⟨hslot, hx, hpc, hi⟩ := h
  rw [step_slot hslot, if_neg (by simp [hx]), if_neg (by simp only [hpc]; exact Bool.false_ne_true), if_neg (by simp [hi])]

theorem stepsTo_of_step {s t : State} (h : step s = .next t) : s.StepsTo t := by
  obtain hslot | ⟨rest, hr⟩ := slotNext_or_reset s
  · rw [step_slot hslot] at h
    split at h
    · next hx => cases h; exact .idle hslot hx
    next hx =>
    split at h
    · cases h
    next hpc =>
    have hx : s.executes = true := by simpa using hx
    have hpc : s.pc.getLsbD 0 = false := Bool.eq_false_iff.2 hpc
    split at h
    · next hi => cases h; exact .unimplemented hslot hx hpc hi
    next hi =>
    cases he : s.execute with
    | next u => rw [he] at h; cases h; exact .executed ⟨hslot, hx, hpc, by simpa using hi⟩ he
    | fault f => rw [he] at h; cases h
    | refused r => rw [he] at h; cases h
  · rw [step_outside hr] at h
    cases h
    exact .outside hr

/-! ### The end of a slot -/

/-- What every entry keeps, the arbitration keeps. -/
theorem arbitrate_keeps {P : State → Prop} (hP : ∀ s src, P s → s.select = some src → P (s.enterSlot src)) (n : Nat)
    {s : State} (h : P s) : P (s.arbitrate n) := by
  induction n generalizing s with
  | zero => exact h
  | succ n ih =>
    unfold State.arbitrate
    split
    · exact h
    next src hsrc =>
    split
    · exact ih (hP s src h hsrc)
    · exact hP s src h hsrc

/-- The state after steps 2 to 5 of a slot without a conflict. -/
def State.beforeArbitrate (s : State) : State :=
  { ((s.events s.slot.cycles).count s.slot.cycles).wake with wrinh := false }

theorem endSlot_of_conflict {s : State} (h : (s.events s.slot.cycles).conflict = true) :
    s.endSlot = (s.events s.slot.cycles).deviceReset .trapConflict := by
  unfold State.endSlot
  rw [if_pos h]

theorem endSlot_of_run {s : State} (h : (s.events s.slot.cycles).conflict = false) (hm : s.beforeArbitrate.mode = .run) :
    s.endSlot = s.beforeArbitrate.arbitrate 16 := by
  unfold State.endSlot
  rw [if_neg (by simp [h])]
  exact if_pos hm

theorem endSlot_of_sleep {s : State} (h : (s.events s.slot.cycles).conflict = false) (hm : s.beforeArbitrate.mode ≠ .run) :
    s.endSlot = s.beforeArbitrate := by
  unfold State.endSlot
  rw [if_neg (by simp [h])]
  exact if_neg hm

/-- What the conflict reset has, and what steps 2 to 5 establish and every entry keeps, the end of a slot has. -/
theorem endSlot_keeps {P : State → Prop} {s : State}
    (hreset : (s.events s.slot.cycles).conflict = true → P ((s.events s.slot.cycles).deviceReset .trapConflict))
    (hbefore : P s.beforeArbitrate) (hentry : ∀ s src, P s → s.select = some src → P (s.enterSlot src)) : P s.endSlot := by
  cases hc : (s.events s.slot.cycles).conflict
  · by_cases hm : s.beforeArbitrate.mode = .run
    · rw [endSlot_of_run hc hm]
      exact arbitrate_keeps hentry 16 hbefore
    · rw [endSlot_of_sleep hc hm]
      exact hbefore
  · rw [endSlot_of_conflict hc]
    exact hreset hc

/-- The device and program memory are those of `s`. -/
def State.HasProgramOf (s t : State) : Prop := t.cfg = s.cfg ∧ t.prog = s.prog

theorem enterSlot_program (s : State) (src : Source) : s.HasProgramOf (s.enterSlot src) := by
  simp [State.HasProgramOf, State.enterSlot]

theorem endSlot_program (s : State) : s.HasProgramOf s.endSlot := by
  refine endSlot_keeps (P := s.HasProgramOf) (fun _ => ?_) ?_ ?_
  · simp [State.HasProgramOf, State.deviceReset]
  · simp [State.HasProgramOf, State.beforeArbitrate]
  · rintro t src ⟨hc, hp⟩ -
    obtain ⟨hc', hp'⟩ := enterSlot_program t src
    exact ⟨hc'.trans hc, hp'.trans hp⟩

/-- Settles O9: neither an instruction nor a step of a slot writes the device or program memory. -/
theorem stepKeepsDeviceAndProgram : Obligations.StepKeepsDeviceAndProgram := by
  intro s t h
  cases stepsTo_of_step h with
  | outside => exact ⟨rfl, rfl⟩
  | idle => exact endSlot_program s.begin
  | unimplemented => exact endSlot_program s.unimplementedSlot
  | executed _ he =>
    obtain ⟨hc, hp, -⟩ := execute_supply he
    obtain ⟨hc', hp'⟩ := endSlot_program (State.tickSkid _)
    exact ⟨hc'.trans hc, hp'.trans hp⟩

/-! ### The invariant -/

theorem endSlot_inv {s : State} (h : s.WellKept) : s.endSlot.Inv := by
  refine endSlot_keeps (P := State.Inv) (fun _ => ?_) ?_ ?_
  · exact ⟨deviceReset_wellKept _ _ (h.events _).prog_wf, rfl⟩
  · exact ⟨((h.events _).count _).wake.congr rfl rfl rfl rfl rfl rfl rfl rfl rfl rfl rfl rfl rfl rfl rfl rfl, rfl⟩
  · exact fun t src ht _ => ⟨ht.kept.enterSlot src, enterSlot_wrinh t src⟩

theorem completeStore_wellKept {x : Except Refusal State} {t : State} (hx : ∀ u, x = .ok u → u.WellKept)
    (h : completeStore x = .next t) : t.WellKept := by
  obtain ⟨u, hu, rfl⟩ := completeStore_next.1 h
  exact (hx u hu).advance.took 1

/-- A register update by IOR sets no unimplemented bit of SR (R157). -/
theorem srAfterIor_impl {d : Device} {sr : Word} (r : Word) (h : sr &&& ~~~d.implMask .sr = 0) :
    srAfterIor sr r &&& ~~~d.implMask .sr = 0 :=
  setBit_impl (fun _ => by rw [implMask_sr]; rfl) (setBit_impl (fun _ => by rw [implMask_sr]; rfl) h)

/-- Every well-formed instruction that completes keeps the invariant. -/
theorem exec_wellKept {i : Instr} {s t : State} (hi : i.wellFormed = true) (h : s.WellKept) (e : exec i s = .next t) :
    t.WellKept := by
  cases i with
  | disi k =>
    cases e
    have hdisi : ({ s.begin with disicnt := k, intcon2 := setBit s.intcon2 14 (k != 0) } : State).WellKept :=
      h.begin.setDisi (setBit_impl (fun _ => implMask_intcon2_14 s.cfg) h.intcon2_impl) (by simp)
    exact hdisi.advance.congr rfl rfl rfl rfl rfl rfl rfl rfl rfl rfl rfl rfl rfl rfl rfl rfl
  | retfie => cases e; exact h.begin.returnFromException.took 3
  | goto p => cases e; exact (h.begin.jump (by simpa [Instr.wellFormed] using hi)).took 2
  | bra n => cases e; exact (h.begin.jump (braTarget_even n h.pc_even)).took 2
  | ret => cases e; exact (h.begin.popFrame.setPc (framePc_even _ _)).took 3
  | reset => cases e; exact (deviceReset_wellKept s .software h.prog_wf).took 1
  | pwrsav k =>
    cases e
    exact h.begin.advance.congr rfl rfl rfl rfl rfl rfl rfl rfl rfl rfl rfl rfl rfl rfl rfl rfl
  | push f => exact completeStore_wellKept (fun _ => (h.begin.readWord f).pushWord) e
  | pop f => exact completeStore_wellKept (fun _ => h.begin.pop16.storeWord) e
  | nop => cases e; exact h.begin.advance.took 1
  | movLit k d => cases e; exact (h.begin.setW d k).advance.took 1
  | movToFile n f => exact completeStore_wellKept (fun _ => h.begin.storeWord) e
  | movFromFile f d => cases e; exact ((h.begin.readWord f).setW d _).advance.took 1
  | bset f b => exact completeStore_wellKept (fun _ => h.begin.modifyByte) e
  | bclr f b =>
    rw [exec_bclr] at e
    split at e
    · exact completeStore_wellKept (by rintro _ ⟨⟩; exact h.begin.storeSfr .rcon 0) e
    · exact completeStore_wellKept (fun _ => h.begin.modifyByte) e
  | iorLit k n =>
    cases e
    exact ((h.begin.setW n _).setSr (by rw [setW_cfg]; exact srAfterIor_impl _ h.sr_impl)).advance.took 1
  | movInd m d =>
    cases e
    have hread : (s.begin.readIndirect m).2.WellKept := by
      unfold State.readIndirect
      split
      · exact (h.begin.checkStackEA _).readWord _
      · exact h.begin.readWord _
    exact (hread.setW d _).advance.took 1

theorem execute_wellKept {s t : State} (h : s.WellKept) (e : s.execute = .next t) : t.WellKept := by
  obtain ⟨k, hk⟩ := fetch_snd_cases s
  have hf : s.fetch.2.2.WellKept := by
    rw [hk]
    exact h.congr rfl rfl rfl rfl rfl rfl rfl rfl rfl rfl rfl rfl rfl rfl rfl rfl
  obtain ⟨i, hi, he⟩ | ⟨a, ha⟩ := execute_cases e
  · obtain ⟨hwf, -⟩ := decodedFrom_of_decode hi
    exact exec_wellKept hwf hf he
  · exact hf.runAnswer ha

/-- Settles O7: every operation keeps `WellKept`, decoded instructions are well-formed, and a slot ends with WRINH clear. -/
theorem stepKeepsInvariant : Obligations.StepKeepsInvariant := by
  intro s t h e
  cases stepsTo_of_step e with
  | outside => exact ⟨deviceReset_wellKept _ _ h.kept.prog_wf, rfl⟩
  | idle => exact endSlot_inv h.kept.begin
  | unimplemented => exact endSlot_inv (h.kept.begin.raise .addressError).advance
  | executed _ he => exact endSlot_inv (execute_wellKept h.kept he).tickSkid

/-- Settles O8: each field of `State.reset` is evaluated. -/
theorem resetHasInvariant : Obligations.ResetHasInvariant := by
  have hzero : ∀ (m : Word) (n : Fin 8), (Vector.replicate 8 (0 : Word))[n] &&& ~~~m = 0 := by simp
  refine ⟨⟨rfl, rfl, rfl, rfl, rfl, rfl, rfl, fun n => hzero _ n, fun n => hzero _ n, ?_, nofun, Nat.zero_le _,
    Nat.zero_le _, rfl, rfl⟩, rfl⟩
  decide

end Sys2Proof.Machine
end

section
/-!
PROOFS. What a step runs (R210), and the steps of a slot one by one: EVENTS, COUNT, WAKE and ARBITRATE.
-/

namespace Sys2Proof.Machine

/-! ### The words at PC -/

theorem progRead_implemented {s : State} {a : ProgAddr} (h : s.cfg.progImplemented a = true) :
    s.progRead a = (s.progWord a, s) := by
  rw [State.progRead, if_pos h]

/-- The PC is past the top after `pc + 2` exactly from the last address (R21). -/
theorem pastTop_two {a : ProgAddr} (ha : a.getLsbD 0 = false) : pastTop a 2 = decide (a = 0x7FFFFE) := by
  have heven := pc_even_iff.1 ha
  have hlt := a.isLt
  have htop : a = 0x7FFFFE ↔ a.toNat = 0x7FFFFE := BitVec.toNat_inj.symm
  rw [pastTop, decide_eq_decide, htop]
  omega

/-- Where the words at PC are implemented, the fetch gives them and changes nothing. -/
theorem fetch_implemented {s : State} (h : s.Fetches)
    (h2 : isTwoWord (s.progWord s.pc) = true → s.cfg.progImplemented (s.pc + 2) = true ∧ s.pc ≠ 0x7FFFFE) :
    s.fetch = (s.wordsAtPc.1, s.wordsAtPc.2, s) := by
  have himpl : s.cfg.progImplemented s.pc = true := (Bool.and_eq_true_iff.1 h.implemented).2
  unfold State.fetch State.wordsAtPc
  rw [progRead_implemented himpl]
  dsimp only
  split
  · next htwo =>
    obtain ⟨himpl2, hlast⟩ := h2 htwo
    have hnot : ¬ pastTop s.pc 2 = true := by rw [pastTop_two h.pc_even, decide_eq_true_eq]; exact hlast
    rw [if_neg hnot, progRead_implemented himpl2]
  · rfl

theorem execute_decoded {s : State} {w1 w2 : ProgWord} {i : Instr} (h : s.fetch = (w1, w2, s)) (hd : decode w1 w2 = .ok i) :
    s.execute = exec i s := by
  simp only [State.execute, h, hd]

theorem execute_undecoded {s : State} {w1 w2 : ProgWord} {e : DecodeError} (h : s.fetch = (w1, w2, s))
    (hd : decode w1 w2 = .error e) : s.execute = executeExternal e w1 s := by
  simp only [State.execute, h, hd]

/-- Settles O4: an implemented fetch changes nothing, and gives the words that are decoded. -/
theorem stepRunsDecodedInstruction : Obligations.StepRunsDecodedInstruction := by
  intro s i h h2 hd
  rw [step_fetches h, execute_decoded (fetch_implemented h h2) hd]
  exact ⟨fun t ht => ⟨by rw [ht]; rfl, rfl⟩, fun r hr => by rw [hr]; rfl⟩

/-- Settles O5: the decoder's two reasons are the two arms of `executeExternal`. -/
theorem stepRefusesUndecodableWord : Obligations.StepRefusesUndecodableWord := by
  intro s h h2
  rw [step_fetches h]
  refine ⟨fun hd => ?_, fun hd => ?_⟩
  · rw [execute_undecoded (fetch_implemented h h2) hd]
    dsimp only [executeExternal, State.wordsAtPc]
    cases Config.cpuStep (s.progWord s.pc) s with
    | none => rfl
    | some a =>
      dsimp only
      cases s.runAnswer a <;> rfl
  · rw [execute_undecoded (fetch_implemented h h2) hd]
    rfl

/-- Settles O6: the slot is `unimplementedSlot`, one address error and an increment of the PC. -/
theorem unimplementedPcRaisesAddressError : Obligations.UnimplementedPcRaisesAddressError := by
  intro s hslot hx hpc hi
  have himpl : s.pcImplemented = false := by
    obtain hi | hi := hi <;> simp [State.pcImplemented, hi]
  have hodd : ¬ s.pc.getLsbD 0 = true := by rw [hpc]; exact Bool.false_ne_true
  refine ⟨s.unimplementedSlot, ?_, rfl, pastTop_two hpc, rfl, rfl, fun _ => rfl, ⟨rfl, rfl⟩,
    ⟨⟨rfl, rfl, rfl⟩, ⟨rfl, rfl, rfl⟩, ⟨rfl, rfl, rfl, rfl, rfl, rfl, rfl, rfl, rfl, rfl, rfl⟩, rfl, ⟨rfl, rfl, rfl, rfl⟩⟩,
    fun _ => rfl⟩
  rw [step_slot hslot, if_neg (by simp [hx]), if_neg hodd, if_pos himpl]

/-! ### EVENTS: the raised traps -/

/-- The race of R56 depends on the device and the notes of the slot alone. -/
theorem raceLost_congr {s t : State} (hc : t.cfg = s.cfg) (hw : t.slot.written = s.slot.written) (r : Sfr) (b : Nat) :
    t.raceLost r b = s.raceLost r b := by
  simp only [State.raceLost, hc, hw]

theorem raceLost_iff (s : State) (r : Sfr) (b : Nat) :
    s.raceLost r b = true ↔ s.cfg.hwSetLast = false ∧ ∃ z, (r, z) ∈ s.slot.written ∧ z.getLsbD b = true := by
  simp only [State.raceLost, Bool.and_eq_true, Bool.not_eq_true', List.any_eq_true, beq_iff_eq, Prod.exists]
  refine and_congr_right fun _ => ⟨?_, ?_⟩
  · rintro ⟨_, z, hz, rfl, hb⟩
    exact ⟨z, hz, hb⟩
  · rintro ⟨z, hz, hb⟩
    exact ⟨r, z, hz, rfl, hb⟩

/-- The request for a trap is withdrawn: software wrote 0 to its flag, and the written value stands (R56, R199). -/
def State.withdrawn (s : State) (x : Trap) : Bool := s.raceLost .intcon1 x.flagBit

/-- A trap that is raised and not withdrawn takes effect. -/
def State.takesEffect (s : State) (x : Trap) : Bool := s.slot.raised.has x && !s.withdrawn x

theorem postTrap_takesEffect (s : State) (x y : Trap) : (s.postTrap x).takesEffect y = s.takesEffect y := by
  simp only [State.takesEffect, State.withdrawn, postTrap_slot]
  rw [raceLost_congr (postTrap_cfg s x) (by rw [postTrap_slot])]

/-- A trap without effect changes neither flags nor HARDSTALL nor a skid. -/
theorem postTrap_of_no_effect {s : State} {x : Trap} (h : s.takesEffect x = false) :
    s.postTrap x = s ∨ (x = .oscillatorFail ∧ s.postTrap x = s.setCf) := by
  unfold State.postTrap
  split
  · next hr =>
    have hl : s.raceLost .intcon1 x.flagBit = true := by simpa [State.takesEffect, State.withdrawn, hr] using h
    unfold State.requestTrap
    by_cases hx : x = .oscillatorFail
    · refine .inr ⟨hx, ?_⟩
      rw [if_pos hx, if_pos (by rw [raceLost_congr (setCf_cfg s) (by rw [setCf_slot])]; exact hl)]
    · exact .inl (by rw [if_neg hx, if_pos hl])
  · exact .inl rfl

theorem postTrap_of_effect {s : State} {x : Trap} (h : s.takesEffect x = true) :
    s.postTrap x = ((if x = .oscillatorFail then s.setCf else s).setTrapFlag x).armTrap x := by
  obtain ⟨hr, hl⟩ : s.slot.raised.has x = true ∧ s.raceLost .intcon1 x.flagBit = false := by
    simpa [State.takesEffect, State.withdrawn] using h
  unfold State.postTrap
  rw [if_pos hr, State.requestTrap, if_neg]
  split
  · rw [raceLost_congr (setCf_cfg s) (by rw [setCf_slot]), hl]; exact Bool.false_ne_true
  · rw [hl]; exact Bool.false_ne_true

theorem trapFlag_setTrapFlag (s : State) (x y : Trap) :
    (s.setTrapFlag x).trapFlag y = (s.trapFlag y || decide (x = y)) := by
  have hy := flagBit_lt y
  by_cases h : x = y
  · subst h
    simp [State.trapFlag, State.setTrapFlag, show x.flagBit < 16 by omega]
  · have hb : y.flagBit ≠ x.flagBit := fun e => h (flagBit_inj e.symm)
    simp [State.trapFlag, State.setTrapFlag, h, hb]

/-- The effect of a raised trap on the flags (R184). -/
theorem postTrap_trapFlag (s : State) (x y : Trap) :
    (s.postTrap x).trapFlag y = (s.trapFlag y || (decide (x = y) && s.takesEffect y)) := by
  cases h : s.takesEffect x
  · have hnone : (decide (x = y) && s.takesEffect y) = false := by
      by_cases hxy : x = y
      · subst hxy; simp [h]
      · simp [hxy]
    rw [hnone, Bool.or_false]
    obtain e | ⟨-, e⟩ := postTrap_of_no_effect h <;> rw [e]
    rfl
  · rw [postTrap_of_effect h]
    have harm : ∀ u : State, (u.armTrap x).trapFlag y = u.trapFlag y := fun u => by simp [State.trapFlag]
    rw [harm, trapFlag_setTrapFlag]
    by_cases hxy : x = y
    · subst hxy; simp [h]
    · split <;> simp [hxy, State.trapFlag]

/-- The events set the flag of every trap that takes effect (R184). -/
theorem postTraps_trapFlag (s : State) (y : Trap) : s.postTraps.trapFlag y = (s.trapFlag y || s.takesEffect y) := by
  simp only [State.postTraps, postTrap_trapFlag, postTrap_takesEffect]
  cases y <;> simp

/-- The effect of a raised trap on HARDSTALL (R198). -/
theorem postTrap_stallOsc (s : State) (x : Trap) :
    (s.postTrap x).stallOsc = (s.stallOsc || (decide (x = .oscillatorFail) && s.takesEffect x)) := by
  cases h : s.takesEffect x
  · obtain e | ⟨-, e⟩ := postTrap_of_no_effect h <;> simp [e]
  · rw [postTrap_of_effect h]
    cases x <;> simp [State.armTrap]

theorem postTrap_stallAddr (s : State) (x : Trap) :
    (s.postTrap x).stallAddr = (s.stallAddr || (decide (x = .addressError) && s.takesEffect x)) := by
  cases h : s.takesEffect x
  · obtain e | ⟨-, e⟩ := postTrap_of_no_effect h <;> simp [e]
  · rw [postTrap_of_effect h]
    cases x <;> simp [State.armTrap]

theorem postTraps_stallOsc (s : State) : s.postTraps.stallOsc = (s.stallOsc || s.takesEffect .oscillatorFail) := by
  simp [State.postTraps, postTrap_stallOsc]

theorem postTraps_stallAddr (s : State) : s.postTraps.stallAddr = (s.stallAddr || s.takesEffect .addressError) := by
  simp [State.postTraps, postTrap_stallAddr, postTrap_takesEffect]

/-- The effect of a raised trap on the skid of the stack error trap (R197). -/
theorem postTrap_skidStack (s : State) (x : Trap) :
    if x = .stackError ∧ s.takesEffect x = true then (s.postTrap x).skidStack ≤ s.cfg.skidMax
    else (s.postTrap x).skidStack = s.skidStack := by
  cases h : s.takesEffect x
  · obtain e | ⟨-, e⟩ := postTrap_of_no_effect h <;> simp [e]
  · rw [postTrap_of_effect h]
    cases x <;> simp [State.armTrap]
    exact drawSkid_le _

theorem postTrap_skidMath (s : State) (x : Trap) :
    if x = .mathError ∧ s.takesEffect x = true then (s.postTrap x).skidMath ≤ s.cfg.skidMax
    else (s.postTrap x).skidMath = s.skidMath := by
  cases h : s.takesEffect x
  · obtain e | ⟨-, e⟩ := postTrap_of_no_effect h <;> simp [e]
  · rw [postTrap_of_effect h]
    cases x <;> simp [State.armTrap]
    exact drawSkid_le _

theorem postTraps_skidStack (s : State) :
    if s.takesEffect .stackError = true then s.postTraps.skidStack ≤ s.cfg.skidMax
    else s.postTraps.skidStack = s.skidStack := by
  have h1 := postTrap_skidStack s .oscillatorFail
  have h2 := postTrap_skidStack (s.postTrap .oscillatorFail) .addressError
  have h3 := postTrap_skidStack ((s.postTrap .oscillatorFail).postTrap .addressError) .stackError
  have h4 := postTrap_skidStack (((s.postTrap .oscillatorFail).postTrap .addressError).postTrap .stackError) .mathError
  simp only [reduceCtorEq, false_and, if_false, true_and, postTrap_takesEffect, postTrap_cfg] at h1 h2 h3 h4
  rw [h2, h1] at h3
  unfold State.postTraps
  rwa [h4]

theorem postTraps_skidMath (s : State) :
    if s.takesEffect .mathError = true then s.postTraps.skidMath ≤ s.cfg.skidMax
    else s.postTraps.skidMath = s.skidMath := by
  have h1 := postTrap_skidMath s .oscillatorFail
  have h2 := postTrap_skidMath (s.postTrap .oscillatorFail) .addressError
  have h3 := postTrap_skidMath ((s.postTrap .oscillatorFail).postTrap .addressError) .stackError
  have h4 := postTrap_skidMath (((s.postTrap .oscillatorFail).postTrap .addressError).postTrap .stackError) .mathError
  simp only [reduceCtorEq, false_and, if_false, true_and, postTrap_takesEffect, postTrap_cfg] at h1 h2 h3 h4
  rw [h3, h2, h1] at h4
  exact h4

/-- The effect of a raised trap on CF (R196). -/
theorem postTrap_cf (s : State) (x : Trap) :
    (s.postTrap x).cf = (s.cf || (decide (x = .oscillatorFail) && s.slot.raised.osc && !s.raceLost .osccon 3)) := by
  unfold State.postTrap
  split
  · next hr =>
    cases x <;> simp [State.setCf]
    rw [show s.slot.raised.osc = true from hr, Bool.true_and]
  · next hr =>
    cases x <;> simp
    exact fun h => absurd h hr

theorem postTraps_cf (s : State) : s.postTraps.cf = (s.cf || (s.slot.raised.osc && !s.raceLost .osccon 3)) := by
  simp [State.postTraps, postTrap_cf]

/-- What a fold of cycle events keeps, the events keep after the traps took effect. -/
theorem events_keeps {γ : Type} (g : State → γ) (hg : ∀ s c, g (State.cycleEvents s c) = g s) (s : State) (n : Nat) :
    g (s.events n) = g (s.beforePost n).postTraps := by
  rw [events_eq, foldl_keeps g _ hg]

theorem events_trapFlag (s : State) (n : Nat) (x : Trap) :
    (s.events n).trapFlag x = (s.trapFlag x || (s.beforePost n).takesEffect x) := by
  rw [events_keeps (fun t => t.trapFlag x) (fun t c => by simp [State.trapFlag]), postTraps_trapFlag]
  rfl

theorem events_stallOsc (s : State) (n : Nat) :
    (s.events n).stallOsc = (s.stallOsc || (s.beforePost n).takesEffect .oscillatorFail) := by
  rw [events_keeps State.stallOsc (by simp), postTraps_stallOsc]
  rfl

theorem events_stallAddr (s : State) (n : Nat) :
    (s.events n).stallAddr = (s.stallAddr || (s.beforePost n).takesEffect .addressError) := by
  rw [events_keeps State.stallAddr (by simp), postTraps_stallAddr]
  rfl

/-- Settles O55: the four raised traps take effect one after the other, each on its own flag, stall or skid. -/
theorem eventsPostRaisedTraps : Obligations.EventsPostRaisedTraps := by
  rintro s t n osc lost rfl rfl hlost
  have hl : ∀ x, lost x = s.withdrawn x := fun x =>
    Bool.eq_iff_iff.2 ((hlost x).trans (raceLost_iff s .intcon1 x.flagBit).symm)
  have heff : ∀ x, (s.beforePost n).takesEffect x = ((s.beforePost n).slot.raised.has x && !lost x) := fun x => by
    rw [hl]; rfl
  have hstk := postTraps_skidStack (s.beforePost n)
  have hmath := postTraps_skidMath (s.beforePost n)
  refine ⟨?_, ?_, ?_, ?_, ?_, ?_, ?_, raceLost_iff s .osccon 3, ?_, ?_⟩
  · rw [events_trapFlag, heff]; rfl
  · rw [events_trapFlag, heff]; rfl
  · rw [events_trapFlag, heff]; rfl
  · rw [events_trapFlag, heff]; rfl
  · rw [events_stallOsc, heff]; rfl
  · rw [events_stallAddr, heff]; rfl
  · rw [events_keeps State.cf (by simp), postTraps_cf]; rfl
  · rw [events_keeps State.skidStack (by simp)]
    simp only [heff, Bool.and_eq_true, Bool.not_eq_true'] at hstk
    exact hstk
  · rw [events_keeps State.skidMath (by simp)]
    simp only [heff, Bool.and_eq_true, Bool.not_eq_true'] at hmath
    exact hmath

end Sys2Proof.Machine
end

section
/-!
PROOFS. Requests and pins, the DISICNT count, the wake-up, and the device reset, each by what it does to the state.
-/

namespace Sys2Proof.Machine

/-! ### Requests and pins -/

/-- A flag depends on the flag registers alone. -/
theorem ifBit_congr {s t : State} (h : t.ifs = s.ifs) (v : Vec) : t.ifBit v = s.ifBit v := by
  simp only [State.ifBit, h]

/-- The flags after a cycle: those after its requests and its pins. -/
theorem cycleEvents_ifs (s : State) (c : CycleInput) :
    (s.cycleEvents c).ifs = ((List.finRange 5).foldl (fun t x => t.detectEdge c.pins x) (c.reqs.foldl State.requestIrq s)).ifs := by
  unfold State.cycleEvents
  dsimp only

/-- A request on `v` can set its flag: the vector exists, and no race of the slot is lost (R4, R56). -/
def State.settable (s : State) (v : Vec) : Bool :=
  s.implemented v && !s.raceLost (.ifs ⟨v.val / 16, by omega⟩) (v.val % 16)

theorem settable_congr {s t : State} (hc : t.cfg = s.cfg) (hs : t.slot = s.slot) (v : Vec) : t.settable v = s.settable v := by
  simp only [State.settable, State.implemented, hc, raceLost_congr hc (congrArg Slot.written hs)]

/-- A request sets the flag of its own vector alone (R175). -/
theorem requestIrq_ifBit (s : State) (v u : Vec) :
    (s.requestIrq v).ifBit u = (s.ifBit u || (decide (v = u) && s.settable u)) := by
  unfold State.requestIrq
  split
  · next h =>
    have hset : s.settable v = true := h
    by_cases hvu : v = u
    · subst hvu
      simp [State.ifBit, hset, show v.val % 16 < 16 by omega]
    · have hother : ¬ (v.val / 16 = u.val / 16 ∧ u.val % 16 = v.val % 16) := fun ⟨h1, h2⟩ => hvu (Fin.ext (by omega))
      by_cases hw : v.val / 16 = u.val / 16
      · have hb : ¬ u.val % 16 = v.val % 16 := fun e => hother ⟨hw, e⟩
        simp [State.ifBit, hvu, hw, hb]
      · simp [State.ifBit, hvu, Vector.getElem_set_ne _ _ hw]
  · next h =>
    have hset : s.settable v = false := Bool.eq_false_iff.2 h
    by_cases hvu : v = u
    · subst hvu; simp [hset]
    · simp [hvu]

/-- The edge selected on the pin of `x` came, and the device has the pin (R222, R223). -/
def State.pinEdge (s : State) (pins : BitVec 5) (x : Nat) : Bool :=
  decide (x < s.cfg.nExtInt.val) && edge (s.intcon2.getLsbD x) (s.pinprev.getLsbD x) (pins.getLsbD x)

theorem detectEdge_ifBit (s : State) (pins : BitVec 5) (x : Fin 5) (u : Vec) :
    (s.detectEdge pins x).ifBit u = (s.ifBit u || (decide (x.val = u.val) && s.settable u && s.pinEdge pins x.val)) := by
  unfold State.detectEdge
  split
  · next h =>
    have hp : s.pinEdge pins x.val = true := h
    simp only [requestIrq_ifBit, hp, Bool.and_true, Fin.ext_iff]
  · next h =>
    have hp : s.pinEdge pins x.val = false := Bool.eq_false_iff.2 h
    simp [hp]

/-- A fold of steps each of which may set a flag, under a condition no step changes, sets it if some step does. -/
theorem foldl_ifBit {α : Type} {f : State → α → State} {c : State → α → Bool} {v : Vec}
    (hstep : ∀ s a, (f s a).ifBit v = (s.ifBit v || c s a)) (hc : ∀ s a, c (f s a) = c s) (l : List α) (s : State) :
    (l.foldl f s).ifBit v = (s.ifBit v || l.any (c s)) := by
  induction l generalizing s with
  | nil => simp
  | cons a l ih => rw [List.foldl_cons, ih, hstep, hc, List.any_cons, Bool.or_assoc]

theorem requests_ifBit (s : State) (l : List Vec) (v : Vec) :
    (l.foldl State.requestIrq s).ifBit v = (s.ifBit v || (decide (v ∈ l) && s.settable v)) := by
  rw [foldl_ifBit (c := fun t a => decide (a = v) && t.settable v) (fun t a => requestIrq_ifBit t a v)
    (fun t a => by simp only [settable_congr (requestIrq_cfg t a) (requestIrq_slot t a)])]
  rw [Bool.eq_iff_iff]
  simp

theorem pins_ifBit (s : State) (pins : BitVec 5) (v : Vec) :
    ((List.finRange 5).foldl (fun t x => t.detectEdge pins x) s).ifBit v =
      (s.ifBit v || (s.settable v && s.pinEdge pins v.val)) := by
  rw [foldl_ifBit (c := fun t x => decide (x.val = v.val) && t.settable v && t.pinEdge pins x.val)
    (fun t x => detectEdge_ifBit t pins x v)
    (fun t x => by simp only [State.pinEdge, settable_congr (detectEdge_cfg t pins x) (detectEdge_slot t pins x),
      detectEdge_cfg, detectEdge_intcon2, detectEdge_pinprev])]
  congr 1
  rw [Bool.eq_iff_iff, List.any_eq_true]
  simp only [Bool.and_eq_true, decide_eq_true_eq, List.mem_finRange, true_and]
  refine ⟨?_, fun ⟨hset, hp⟩ => ?_⟩
  · rintro ⟨x, ⟨hx, hset⟩, hp⟩
    exact ⟨hset, hx ▸ hp⟩
  · have hlt : v.val < s.cfg.nExtInt.val := by
      simp only [State.pinEdge, Bool.and_eq_true, decide_eq_true_eq] at hp
      exact hp.1
    exact ⟨⟨v.val, by omega⟩, ⟨rfl, hset⟩, hp⟩

/-- Settles O54: requests and pins are two folds, and each step can set the flag of its own vector alone. -/
theorem cycleEventsSetFlags : Obligations.CycleEventsSetFlags := by
  refine fun s c => ⟨fun r b => raceLost_iff s r b, rfl, fun v => ?_⟩
  have hpins := pins_ifBit (c.reqs.foldl State.requestIrq s) c.pins v
  have hcfg : (c.reqs.foldl State.requestIrq s).cfg = s.cfg := foldl_keeps State.cfg _ (by simp) _ _
  have hslot : (c.reqs.foldl State.requestIrq s).slot = s.slot := foldl_keeps State.slot _ (by simp) _ _
  have hint : (c.reqs.foldl State.requestIrq s).intcon2 = s.intcon2 := foldl_keeps State.intcon2 _ (by simp) _ _
  have hprev : (c.reqs.foldl State.requestIrq s).pinprev = s.pinprev := foldl_keeps State.pinprev _ (by simp) _ _
  have hedge : (c.reqs.foldl State.requestIrq s).pinEdge c.pins v.val = s.pinEdge c.pins v.val := by
    simp only [State.pinEdge, hcfg, hint, hprev]
  rw [settable_congr hcfg hslot, hedge, requests_ifBit] at hpins
  rw [ifBit_congr (cycleEvents_ifs s c), hpins, Bool.or_assoc]
  simp only [State.settable, State.pinEdge, edge, Bool.and_comm (decide (v ∈ c.reqs)), ← Bool.and_or_distrib_left]

/-! ### The DISICNT count -/

theorem count_disicnt_toNat {s : State} (n : Nat) (h : s.slot.disi = false) :
    (s.count n).disicnt.toNat = s.disicnt.toNat - n := by
  have hlt := s.disicnt.isLt
  rw [count_of_not_disi n h, BitVec.toNat_ofNat, Nat.mod_eq_of_lt (by omega)]

/-- Settles O12: the two branches of the count. -/
theorem disicntCountsCycles : Obligations.DisicntCountsCycles := by
  refine fun s n => ⟨fun h => ?_, fun h => ⟨?_, count_disicnt_toNat n h, ?_, fun b hb => ?_⟩⟩
  · rw [count_of_disi n h]
    exact ⟨rfl, rfl, rfl⟩
  · rw [count_of_not_disi n h]
  · rw [count_of_not_disi n h]
    simp only [State.disiBit]
    split
    · next hle => simp [Nat.not_lt.2 hle]
    · next hlt => simp [Nat.not_le.1 hlt]
  · rw [count_of_not_disi n h]
    dsimp only
    split
    · simp [hb]
    · rfl

/-! ### The wake-up -/

theorem wakeRequest_iff (s : State) : s.wakeRequest = true ↔
    ∃ v : Vec, s.implemented v = true ∧ s.ifBit v = true ∧ s.ieBit v = true ∧ 1 ≤ (s.ipField v).toNat := by
  simp only [State.wakeRequest, List.any_eq_true, List.mem_finRange, true_and, Bool.and_eq_true, decide_eq_true_eq]
  exact exists_congr fun v => by tauto

/-- Settles O57: `wake` changes the mode alone, and only to Run. -/
theorem wakeCondition : Obligations.WakeCondition := by
  intro s
  simp only [← wakeRequest_iff]
  unfold State.wake
  by_cases hm : s.mode = .run
  · simp [hm]
  · by_cases hw : s.wakeRequest = true ∨ (s.slot.raised.nonempty = true ∧ s.cfg.trapWakes = true)
    · rw [if_pos (by simpa [hm] using hw), if_pos (.inr hw)]
    · rw [if_neg (by simpa [hm] using hw), if_neg (by tauto)]

/-! ### Device reset -/

/-- A nibble of the mask of IPCn holds three bits where its vector exists (R42). -/
theorem ipcMask_getLsbD (d : Device) (n : Fin 30) {k i : Nat} (hk : k < 4) (hi : i < 3) :
    (d.ipcMask n).getLsbD (4 * k + i) = d.implVec.getLsbD (4 * n.val + k) := by
  have hnib : ∀ v, (d.ipNibble v).getLsbD i = d.implVec.getLsbD v := by
    intro v
    unfold Device.ipNibble
    obtain rfl | rfl | rfl : i = 0 ∨ i = 1 ∨ i = 2 := by omega
    all_goals cases d.implVec.getLsbD v <;> rfl
  unfold Device.ipcMask
  simp only [BitVec.getLsbD_append]
  obtain rfl | rfl | rfl | rfl : k = 0 ∨ k = 1 ∨ k = 2 ∨ k = 3 := by omega
  · rw [if_pos (by omega), Nat.mul_zero, Nat.zero_add, hnib]; rfl
  · rw [if_neg (by omega), if_pos (by omega), show 4 * 1 + i - 4 = i by omega, hnib]
  · rw [if_neg (by omega), if_neg (by omega), if_pos (by omega), show 4 * 2 + i - 4 - 4 = i by omega, hnib]
  · rw [if_neg (by omega), if_neg (by omega), if_neg (by omega), show 4 * 3 + i - 4 - 4 - 4 = i by omega, hnib]

/-- The same bit, found by its vector. -/
theorem ipcMask_getLsbD_vec (d : Device) (v : Vec) {i : Nat} (hi : i < 3) :
    (d.ipcMask ⟨v.val / 4, by omega⟩).getLsbD (4 * (v.val % 4) + i) = d.implVec.getLsbD v.val := by
  rw [ipcMask_getLsbD d _ (by omega) hi]
  congr 1
  exact Nat.div_add_mod v.val 4

theorem deviceReset_ipc (s : State) (c : ResetCause) (n : Fin 30) : (s.deviceReset c).ipc[n] = 0x4444 &&& s.cfg.ipcMask n := by
  simp [State.deviceReset, Device.ipcReset]

/-- R42, R58: every implemented vector has priority 4 after a reset. -/
theorem deviceReset_ipField (s : State) (c : ResetCause) (v : Vec) :
    (s.deviceReset c).ipField v = if s.implemented v then 4 else 0 := by
  have hfour : ∀ k < 4, ∀ i < 3, (0x4444 : Word).getLsbD (4 * k + i) = (4 : BitVec 3).getLsbD i := by decide
  refine BitVec.eq_of_getLsbD_eq fun i hi => ?_
  have hipc := deviceReset_ipc s c ⟨v.val / 4, by omega⟩
  rw [Fin.getElem_fin] at hipc
  rw [State.ipField, hipc, BitVec.getLsbD_extractLsb', BitVec.getLsbD_and, ipcMask_getLsbD_vec _ _ hi,
    hfour _ (by omega) i hi, State.implemented]
  cases s.cfg.implVec.getLsbD v.val <;> simp [hi]

/-- R42, R43, R58: the reset value of IPCn where every vector exists; IPC29 holds two of them. -/
theorem ipcReset_allVectors {d : Device} (h : d.implVec = BitVec.allOnes 118) (n : Fin 30) :
    0x4444 &&& d.ipcMask n = if n = 29 then 0x0044 else 0x4444 := by
  have hnib : ∀ v, d.ipNibble v = if v < 118 then 0x7 else 0x0 := by
    intro v
    rw [Device.ipNibble, h, BitVec.getLsbD_allOnes]
    simp only [decide_eq_true_eq]
  unfold Device.ipcMask
  by_cases hn : n = 29
  · subst hn
    simp only [hnib]
    rfl
  · have hlt : n.val < 29 := by
      have := fun e => hn (Fin.ext e)
      omega
    rw [hnib, hnib, hnib, hnib, if_pos (by omega), if_pos (by omega), if_pos (by omega), if_pos (by omega), if_neg hn]
    rfl

theorem deviceReset_cpuPri (s : State) (c : ResetCause) : (s.deviceReset c).cpuPri = 0 :=
  (cpuPri_congr (s := State.reset) rfl rfl).trans (by decide)

theorem deviceReset_getW_15 (s : State) (c : ResetCause) : (s.deviceReset c).getW 15 = 0x0800 :=
  (getW_congr (s := State.reset) rfl 15).trans (by decide)

/-- Settles O18: the fields of `deviceReset`; a reset from outside is the first branch of `step`. -/
theorem deviceResetClearsRegisters : Obligations.DeviceResetClearsRegisters := by
  refine ⟨fun s rest => step_outside, ?_⟩
  rintro s c t rfl
  have hzero : ∀ n : Fin 8, (Vector.replicate 8 (0 : Word))[n] = 0 := by simp
  refine ⟨rfl, rfl, rfl, rfl, deviceReset_getW_15 s c, fun n hn => ?_, rfl, rfl, rfl, rfl, fun n => ⟨hzero n, hzero n⟩,
    deviceReset_ipField s c, fun h n => ?_, rfl, rfl, rfl, rfl, rfl, rfl, rfl, deviceReset_cpuPri s c, rfl, rfl⟩
  · have h15 : (15 : Nat) ≠ n.val := fun e => hn (Fin.ext e.symm)
    simp [State.getW, State.deviceReset, State.reset, hn, Vector.getElem_set_ne _ _ h15]
  · rw [deviceReset_ipc, ipcReset_allVectors h]

/-- Settles O19: RESET is `deviceReset` by definition. -/
theorem resetInstructionResetsDevice : Obligations.ResetInstructionResetsDevice :=
  ⟨rfl, fun s => ⟨_, rfl, rfl, rfl, deviceReset_getW_15 s _, deviceReset_cpuPri s _, Bool.or_false _, rfl, rfl, rfl⟩⟩

/-- Settles O56: the conflict is seen after the events, which change neither CPUPRI nor the mark of the address error. -/
theorem hardTrapConflictResetsDevice : Obligations.HardTrapConflictResetsDevice := by
  intro s haddr hosc
  have hpri : (s.events s.slot.cycles).cpuPri = s.cpuPri := cpuPri_congr (events_sr s _) (events_corcon s _)
  have hc : (s.events s.slot.cycles).conflict = true := by
    simp only [State.conflict, events_slot, haddr, hpri, Bool.true_and, Bool.or_eq_true, decide_eq_true_eq]
    exact hosc
  rw [endSlot_of_conflict hc]
  exact ⟨rfl, rfl, Bool.or_true _, rfl, deviceReset_cpuPri _ _, deviceReset_getW_15 _ _, rfl, rfl⟩

end Sys2Proof.Machine
end

section
/-!
PROOFS. Taking an exception: the priority of an entry (R207, R208), the arbitration of a slot (R204, R210), and the stuck CPU
(R202).
-/

namespace Sys2Proof.Machine

/-! ### The priority of an entry -/

theorem enter_sr (s : State) (src : Source) :
    (s.enter src).sr = (s.pushFrame.enterPriority src (s.sourcePri src)).sr := by
  simp [State.enter]

theorem enter_corcon (s : State) (src : Source) :
    (s.enter src).corcon = (s.pushFrame.enterPriority src (s.sourcePri src)).corcon := by
  simp [State.enter]

theorem enter_trap_ipl (s : State) (x : Trap) : (s.enter (.trap x)).ipl = BitVec.ofNat 3 (x.priority - 8) := by
  rw [State.ipl, enter_sr]
  exact ipl_of_srWithIpl _ _

theorem enter_trap_ipl3 (s : State) (x : Trap) : (s.enter (.trap x)).ipl3 = true := by
  rw [State.ipl3, enter_corcon]
  exact (getLsbD_setBit _ _ _ _).trans (if_pos ⟨rfl, by decide⟩)

/-- A trap entry makes CPUPRI the priority of the trap (R208). -/
theorem enter_trap_cpuPri (s : State) (x : Trap) : (s.enter (.trap x)).cpuPri = x.priority := by
  rw [cpuPri_eq, enter_trap_ipl3, enter_trap_ipl]
  cases x <;> rfl

/-- Settles O50: `enterPriority` writes IPL3 and IPL<2:0> whatever the pushes did before it. -/
theorem trapEntrySetsPriority : Obligations.TrapEntrySetsPriority := by
  refine fun s x => ⟨enter_trap_cpuPri s x, enter_trap_ipl3 s x, ?_⟩
  rw [enter_trap_ipl]
  cases x <;> rfl

theorem enter_irq_ipl (s : State) (v : Vec) :
    (s.enter (.irq v)).ipl = if s.pushFrame.nstdis then 7 else s.ipField v := by
  rw [State.ipl, enter_sr]
  refine (ipl_of_srWithIpl _ _).trans ?_
  rw [State.sourcePri, BitVec.ofNat_toNat, BitVec.setWidth_eq]

theorem ipl_le_cpuPri (s : State) : s.ipl.toNat ≤ s.cpuPri := by
  rw [cpuPri_eq]
  omega

/-- After an entry CPUPRI is at least the priority of its source (R207, R208). -/
theorem sourcePri_le_enter_cpuPri (s : State) (src : Source) : s.sourcePri src ≤ (s.enter src).cpuPri := by
  cases src with
  | trap x => exact (enter_trap_cpuPri s x).ge
  | irq v =>
    refine le_trans ?_ (ipl_le_cpuPri _)
    rw [enter_irq_ipl]
    split
    · exact Nat.le_of_lt_succ (s.ipField v).isLt
    · exact le_rfl

theorem enterSlot_cpuPri (s : State) (src : Source) : (s.enterSlot src).cpuPri = (s.beginEntry.enter src).cpuPri :=
  cpuPri_congr (by simp [State.enterSlot]) (by simp [State.enterSlot])

/-- Settles O52: what is selected is above CPUPRI, and CPUPRI rises to it. -/
theorem entryRaisesCpuPriority : Obligations.EntryRaisesCpuPriority := by
  intro s src h
  calc s.cpuPri < s.sourcePri src := cpuPri_lt_of_select h
    _ = s.beginEntry.sourcePri src := by cases src <;> rfl
    _ ≤ (s.beginEntry.enter src).cpuPri := sourcePri_le_enter_cpuPri _ _
    _ = (s.enterSlot src).cpuPri := (enterSlot_cpuPri s src).symm

/-! ### Masking -/

/-- Settles O46: with IPL3 = 0 CPUPRI is at most 7; a candidate trap leaves a top one to select. -/
theorem trapsCannotBeMasked : Obligations.TrapsCannotBeMasked := by
  refine fun s x => ⟨fun h3 => ?_, fun hflag hskid hpri => ?_⟩
  · have hipl := s.ipl.isLt
    have hx := priority_lt x
    rw [cpuPri_eq, h3, if_neg Bool.false_ne_true]
    omega
  · have hx := (trapCandidate_iff s x).2 ⟨hflag, hskid, hpri⟩
    obtain ⟨t, ⟨ht, htop⟩, hsel⟩ | ⟨hnone, -⟩ := select_cases s
    · exact ⟨t, hsel, htop x hx⟩
    · simp [hnone x] at hx

theorem eligible_of_cpuPri {s : State} {v : Vec} (h : (s.ipField v).toNat ≤ s.cpuPri) : s.eligible v = false := by
  simp [State.eligible, Nat.not_lt.2 h]

/-- R172: at CPUPRI 7 and above every user interrupt is disabled. -/
theorem eligible_of_seven {s : State} (h : 7 ≤ s.cpuPri) (v : Vec) : s.eligible v = false :=
  eligible_of_cpuPri (le_trans (Nat.le_of_lt_succ (s.ipField v).isLt) h)

/-- Settles O47: the conjuncts of `eligible`. -/
theorem maskingOfUserInterrupts : Obligations.MaskingOfUserInterrupts := by
  refine fun s v => ⟨fun hm => ?_, fun hm hp => ?_, fun hp => ?_, fun hi => ?_, fun h3 => ?_, fun hi => ?_⟩
  · simp [State.eligible, hm]
  · simp [State.eligible, hm, hp]
  · simp [State.eligible, hp]
  · have h := ipl_le_cpuPri s
    rw [hi] at h
    exact eligible_of_seven h v
  · refine eligible_of_seven ?_ v
    rw [cpuPri_eq, if_pos h3]
    omega
  · simp [State.eligible, hi]

/-! ### The arbitration of a slot -/

theorem arbitrate_of_none {s : State} (h : s.select = none) (n : Nat) : s.arbitrate n = s := by
  cases n with
  | zero => rfl
  | succ n => simp [State.arbitrate, h]

theorem arbitrate_of_last {s : State} {src : Source} (h : s.select = some src)
    (hlast : (s.cfg.preemptBeforeFirst || (s.enterSlot src).hardTrapWaits) = false) (n : Nat) :
    s.arbitrate (n + 1) = s.enterSlot src := by
  rw [Bool.or_eq_false_iff] at hlast
  simp [State.arbitrate, h, hlast]

theorem arbitrate_of_more {s : State} {src : Source} (h : s.select = some src)
    (hmore : (s.cfg.preemptBeforeFirst || (s.enterSlot src).hardTrapWaits) = true) (n : Nat) :
    s.arbitrate (n + 1) = (s.enterSlot src).arbitrate n := by
  rw [Bool.or_eq_true] at hmore
  simp [State.arbitrate, h, hmore]

/-- A hard trap that could be entered would be selected. -/
theorem hardTrapWaits_of_select_none {s : State} (h : s.select = none) : s.hardTrapWaits = false := by
  obtain ⟨t, -, hsel⟩ | ⟨hnone, -⟩ := select_cases s
  · simp [hsel] at h
  · simp [State.hardTrapWaits, hnone]

@[simp] theorem enterSlot_cfg (s : State) (src : Source) : (s.enterSlot src).cfg = s.cfg := by
  simp [State.enterSlot]

/-- The arbitration ends before its rounds do, since each entry raises CPUPRI, which is at most 15 (log 25). -/
theorem arbitrate_settles {n : Nat} {s : State} (h : 15 < n + s.cpuPri) :
    (s.arbitrate n).hardTrapWaits = false ∧ (s.cfg.preemptBeforeFirst = true → (s.arbitrate n).select = none) := by
  induction n generalizing s with
  | zero => exact absurd (cpuPri_le s) (by omega)
  | succ n ih =>
    cases hsel : s.select with
    | none =>
      rw [arbitrate_of_none hsel]
      exact ⟨hardTrapWaits_of_select_none hsel, fun _ => hsel⟩
    | some src =>
      cases hlast : s.cfg.preemptBeforeFirst || (s.enterSlot src).hardTrapWaits
      · rw [arbitrate_of_last hsel hlast]
        obtain ⟨hpre, hwaits⟩ := Bool.or_eq_false_iff.1 hlast
        exact ⟨hwaits, fun h => by simp [hpre] at h⟩
      · rw [arbitrate_of_more hsel hlast]
        have hrise := entryRaisesCpuPriority s src hsel
        have hrest := ih (s := s.enterSlot src) (by omega)
        rwa [enterSlot_cfg] at hrest

theorem enterSlot_cycles (s : State) (src : Source) : (s.enterSlot src).slot.cycles = s.slot.cycles + 4 := by
  obtain ⟨hc, -, -⟩ := enter_marks s.beginEntry src
  rw [State.enterSlot, count_slot]
  simp [hc]

/-- Where the frame lies in ordinary memory, the entry changes no control register (R212). -/
theorem enter_control {s : State} (src : Source) (h : s.FrameInRam) (hw : s.wrinh = false) : SameControl s (s.enter src) := by
  constructor <;> simp [State.enter, pushFrame_ram h hw]

theorem enterSlot_disicnt {s : State} (src : Source) (h : s.FrameInRam) :
    (s.enterSlot src).disicnt.toNat = s.disicnt.toNat - 4 := by
  have hframe : s.beginEntry.FrameInRam := ⟨ramAt_congr (s := s) rfl h.low, ramAt_congr (s := s) rfl h.high⟩
  have hd : ((s.beginEntry.enter src).events 4).slot.disi = false := by
    obtain ⟨-, hd, -⟩ := enter_marks s.beginEntry src
    simp [hd]
  rw [State.enterSlot, count_disicnt_toNat 4 hd, events_disicnt, (enter_control src hframe rfl).disicnt]
  rfl

/-- Settles O53: the rounds of the arbitration one by one, and the branches of `endSlot`. -/
theorem arbitrationEntersWhatIsSelected : Obligations.ArbitrationEntersWhatIsSelected := by
  intro s
  obtain ⟨hwaits, hpre⟩ := arbitrate_settles (n := 16) (s := s) (by omega)
  refine ⟨fun h => arbitrate_of_none h 16, fun src hsel hp hw => arbitrate_of_last hsel (by simp [hp, hw]) 15, hpre, hwaits,
    ?_, ?_⟩
  · rintro src b rfl
    exact ⟨rfl, enterSlot_cycles s src, enterSlot_disicnt src⟩
  · rintro e u rfl hc rfl
    exact ⟨endSlot_of_run hc, endSlot_of_sleep hc⟩

/-! ### The stuck CPU -/

theorem enter_stallAddr (s : State) (src : Source) :
    (s.enter src).stallAddr = (s.stallAddr && src != .trap .addressError) := by
  simp [State.enter]

theorem enter_stallOsc (s : State) (src : Source) :
    (s.enter src).stallOsc = (s.stallOsc && src != .trap .oscillatorFail) := by
  simp [State.enter]

theorem sourcePri_le (s : State) (src : Source) : s.sourcePri src ≤ 14 := by
  cases src with
  | trap x => exact (priority_lt x).2
  | irq v => exact le_trans (Nat.le_of_lt_succ (s.ipField v).isLt) (by decide)

/-- A stuck CPU executes nothing (R51). -/
theorem State.Stuck.executes {s : State} (h : s.Stuck) : s.executes = false := by
  obtain ⟨h, -⟩ | ⟨h, -⟩ := h <;> simp [State.executes, State.noStall, h]

/-- A stuck CPU stays stuck where HARDSTALL loses no trap and CPUPRI is kept. -/
theorem State.Stuck.mono {s t : State} (h : s.Stuck) (ha : s.stallAddr = true → t.stallAddr = true)
    (ho : s.stallOsc = true → t.stallOsc = true) (hp : t.cpuPri = s.cpuPri) : t.Stuck := by
  obtain ⟨h, hle⟩ | ⟨h, hle⟩ := h
  · exact .inl ⟨ha h, hp ▸ hle⟩
  · exact .inr ⟨ho h, hp ▸ hle⟩

theorem State.Stuck.events {s : State} (h : s.Stuck) (n : Nat) : (s.events n).Stuck :=
  h.mono (fun ha => by simp [events_stallAddr, ha]) (fun ho => by simp [events_stallOsc, ho])
    (cpuPri_congr (events_sr s n) (events_corcon s n))

theorem State.Stuck.count {s : State} (h : s.Stuck) (n : Nat) : (s.count n).Stuck :=
  h.mono (fun ha => by simp [ha]) (fun ho => by simp [ho]) (cpuPri_congr (count_sr s n) (count_corcon s n))

theorem State.Stuck.wake {s : State} (h : s.Stuck) : s.wake.Stuck :=
  h.mono (fun ha => by simp [ha]) (fun ho => by simp [ho]) (cpuPri_congr (wake_sr s) (wake_corcon s))

/-- The only entry a stuck CPU can make is that of an oscillator failure above a waiting address error, which goes on waiting. -/
theorem State.Stuck.enterSlot {s : State} (h : s.Stuck) {src : Source} (hsel : s.select = some src) :
    (s.enterSlot src).Stuck := by
  have habove := cpuPri_lt_of_select hsel
  have hmax := sourcePri_le s src
  obtain ⟨hstall, hle⟩ | ⟨-, hle⟩ := h
  · have hentered : (s.beginEntry.enter src).Stuck := by
      have hpri := sourcePri_le_enter_cpuPri s.beginEntry src
      have hsame : s.beginEntry.sourcePri src = s.sourcePri src := by cases src <;> rfl
      have hsrc : src ≠ .trap .addressError := by
        rintro rfl
        exact absurd habove (Nat.not_lt.2 hle)
      exact .inl ⟨by simp [enter_stallAddr, hstall, hsrc], by omega⟩
    exact (hentered.events 4).count 4
  · omega

/-- The inputs of the slot's cycles are taken from the front, so no reset joins those to come. -/
theorem noOutsideReset_events {s : State} (h : s.NoOutsideReset) (n : Nat) : (s.events n).NoOutsideReset := by
  intro hmem
  rw [events_inputs] at hmem
  exact h (takeCycles_subset n s.inputs hmem)

theorem noOutsideReset_enterSlot {s : State} (h : s.NoOutsideReset) (src : Source) : (s.enterSlot src).NoOutsideReset := by
  have henter : (s.beginEntry.enter src).NoOutsideReset := by
    rw [State.NoOutsideReset, enter_inputs]
    exact h
  have hevents := noOutsideReset_events henter 4
  rwa [State.NoOutsideReset, ← count_inputs _ 4] at hevents

/-- A stuck slot: no address error is raised in it, so it makes no conflict, and CPUPRI and HARDSTALL last to its end. -/
theorem endSlot_stuck {s : State} (h : s.Stuck) (hr : s.NoOutsideReset) (haddr : s.slot.raised.addr = false) :
    s.endSlot.Stuck ∧ s.endSlot.NoOutsideReset := by
  refine endSlot_keeps (P := fun t => t.Stuck ∧ t.NoOutsideReset) (fun hc => ?_) ⟨?_, ?_⟩ ?_
  · simp [State.conflict, haddr] at hc
  · exact (((h.events _).count _).wake).mono id id rfl
  · have hevents := noOutsideReset_events hr s.slot.cycles
    simpa [State.NoOutsideReset, State.beforeArbitrate] using hevents
  · exact fun t src ⟨ht, htr⟩ hsel => ⟨ht.enterSlot hsel, noOutsideReset_enterSlot htr src⟩

/-- Settles O10: a stuck slot executes nothing, and neither its events nor its entries end the wait. -/
theorem stuckCpuStaysStuck : Obligations.StuckCpuStaysStuck := by
  intro s h hr
  have hslot : s.SlotNext := fun e => hr (List.mem_of_mem_head? (by rw [e]; rfl))
  refine ⟨h.executes, s.begin.endSlot, ?_, ?_⟩
  · rw [step_slot hslot, if_pos h.executes]
  · exact endSlot_stuck (s := s.begin) h hr rfl

end Sys2Proof.Machine
end

section
/-!
PROOFS. The wake-up without an entry (R221).
-/

namespace Sys2Proof.Machine

/-! ### A sleeping slot -/

theorem postTraps_of_none {s : State} (h : s.slot.raised = .none) : s.postTraps = s := by
  have hpost : ∀ x, s.postTrap x = s := fun x => by
    unfold State.postTrap
    rw [if_neg]
    rw [h]
    cases x <;> exact Bool.false_ne_true
  rw [State.postTraps, hpost, hpost, hpost, hpost]

/-- The state with other inputs to come. -/
def State.withInputs (s : State) (ins : List Input) : State := { s with inputs := ins }

theorem requestIrq_of_settable {s : State} {v : Vec} (h : s.settable v = true) :
    s.requestIrq v = { s with
      ifs := s.ifs.set (v.val / 16) (setBit (s.ifs[v.val / 16]'(by omega)) (v.val % 16) true) (by omega) } :=
  if_pos h

theorem requestIrq_of_not_settable {s : State} {v : Vec} (h : s.settable v = false) : s.requestIrq v = s :=
  if_neg (Bool.eq_false_iff.1 h)

theorem detectEdge_of_edge {s : State} {pins : BitVec 5} {x : Fin 5} (h : s.pinEdge pins x = true) :
    s.detectEdge pins x = s.requestIrq ⟨x.val, by omega⟩ :=
  if_pos h

theorem detectEdge_of_no_edge {s : State} {pins : BitVec 5} {x : Fin 5} (h : s.pinEdge pins x = false) :
    s.detectEdge pins x = s :=
  if_neg (Bool.eq_false_iff.1 h)

/-- The events of a cycle look at no further input. -/
theorem cycleEvents_withInputs (s : State) (c : CycleInput) (ins : List Input) :
    (s.withInputs ins).cycleEvents c = (s.cycleEvents c).withInputs ins := by
  have hirq : ∀ (t : State) v, (t.withInputs ins).requestIrq v = (t.requestIrq v).withInputs ins := by
    intro t v
    have hsame : (t.withInputs ins).settable v = t.settable v := settable_congr rfl rfl v
    cases h : t.settable v
    · rw [requestIrq_of_not_settable h, requestIrq_of_not_settable (hsame.trans h)]
    · rw [requestIrq_of_settable h, requestIrq_of_settable (hsame.trans h)]
      rfl
  have hedge : ∀ (t : State) x, (t.withInputs ins).detectEdge c.pins x = (t.detectEdge c.pins x).withInputs ins := by
    intro t x
    have hsame : (t.withInputs ins).pinEdge c.pins x = t.pinEdge c.pins x := rfl
    cases h : t.pinEdge c.pins x
    · rw [detectEdge_of_no_edge h, detectEdge_of_no_edge (hsame.trans h)]
    · rw [detectEdge_of_edge h, detectEdge_of_edge (hsame.trans h), hirq]
  unfold State.cycleEvents
  rw [List.foldl_hom (fun t : State => t.withInputs ins) (fun t v => (hirq t v)),
    List.foldl_hom (fun t : State => t.withInputs ins) (fun t x => (hedge t x))]
  rfl

/-- The next cycle of the inputs is quiet or has no effective clock failure, and leaves `s1`; then `rest` is to come. -/
def State.QuietCycle (s s1 : State) (rest : List Input) : Prop :=
  s.inputs = [] ∧ rest = [] ∧ s1 = s ∨
    ∃ c, s.inputs = .cycle c :: rest ∧ (c.clockFail && s.cfg.fscmEnabled) = false ∧ s1 = s.cycleEvents c

/-- The events of a slot of one such cycle, in which no trap was raised: the requests and pins of the cycle. -/
theorem events_one_quiet {s s1 : State} {rest : List Input} (hr : s.slot.raised = .none) (h : s.QuietCycle s1 rest) :
    s.events 1 = s1.withInputs rest := by
  have hosc : s.oscFails 1 = false := by
    obtain ⟨hin, -, -⟩ | ⟨c, hin, hc, -⟩ := h
    · rw [State.oscFails, hr, hin]; rfl
    · rw [State.oscFails, hr, hin]
      simpa [takeCycles, TrapSet.none] using hc
  have hbefore : s.beforePost 1 = s.withInputs (takeCycles 1 s.inputs).2 := by
    have hsame : { s.slot.raised with osc := false } = s.slot.raised := by rw [hr]; rfl
    rw [State.beforePost, hosc, hsame]
    rfl
  have hnone : (s.withInputs (takeCycles 1 s.inputs).2).slot.raised = .none := hr
  rw [events_eq, hbefore, postTraps_of_none hnone]
  obtain ⟨hin, rfl, rfl⟩ | ⟨c, hin, -, rfl⟩ := h
  · rw [hin]; rfl
  · rw [hin]
    exact cycleEvents_withInputs s c rest

/-- No trap is pending and no source is above CPUPRI: nothing is selected. -/
theorem select_eq_none {s : State} (ht : ∀ x, s.trapFlag x = false) (hv : ∀ v, s.eligible v = false) : s.select = none := by
  obtain ⟨t, ⟨hc, -⟩, -⟩ | ⟨-, heq⟩ := select_cases s
  · simp [State.trapCandidate, ht t] at hc
  · rw [heq, (winner_eq_none_iff s).2 hv]
    rfl

/-- Where no trap was raised, only a source wakes a sleeping CPU (R219). -/
theorem wake_run_iff {s : State} (hm : s.mode ≠ .run) (hr : s.slot.raised = .none) : s.wake.mode = .run ↔
    ∃ v : Vec, s.implemented v = true ∧ s.ifBit v = true ∧ s.ieBit v = true ∧ 1 ≤ (s.ipField v).toNat := by
  have hnone : s.slot.raised.nonempty = false := by rw [hr]; rfl
  rw [wakeCondition s]
  split
  · next h => simpa [hm, hnone] using h
  · next h => exact iff_of_false hm (fun hv => h (.inr (.inl hv)))

/-- Settles O58: the sleeping slot is the events of one cycle, the count and the wake-up; then nothing can be entered. -/
theorem wakeUpWithoutEntryResumes : Obligations.WakeUpWithoutEntryResumes := by
  intro s s1 rest hm hin hflags hlow
  have hslot : s.SlotNext := by
    obtain ⟨h, -⟩ | ⟨c, h, -⟩ := hin <;> simp [State.SlotNext, h]
  have hx : s.executes = false := by simp [State.executes, hm]
  have he : s.begin.events 1 = s1.withInputs rest := events_one_quiet (s := s.begin) rfl hin
  have hnoconf : (s.begin.events s.begin.slot.cycles).conflict = false := by
    simp [State.conflict, Slot.fresh, TrapSet.none]
  have hu : s.begin.beforeArbitrate = { ((s1.withInputs rest).count 1).wake with wrinh := false } := by
    rw [← he]; rfl
  -- what the cycle left as it was
  have hsr : s1.sr = s.sr := (congrArg State.sr he).symm.trans (events_sr s.begin 1)
  have hcorcon : s1.corcon = s.corcon := (congrArg State.corcon he).symm.trans (events_corcon s.begin 1)
  have hmode : s1.mode = s.mode := (congrArg State.mode he).symm.trans (events_mode s.begin 1)
  have hint : s1.intcon1 = s.intcon1 := by
    obtain ⟨-, -, rfl⟩ | ⟨c, -, -, rfl⟩ := hin <;> simp
  have hraised : s1.slot.raised = .none := by
    obtain ⟨-, -, rfl⟩ | ⟨c, -, -, rfl⟩ := hin <;> simp [Slot.fresh]
  have hnone : s.begin.beforeArbitrate.select = none := by
    have hpri : s.begin.beforeArbitrate.cpuPri = s.cpuPri := by
      refine cpuPri_congr ?_ ?_ <;> simp [State.beforeArbitrate]
    refine select_eq_none (fun x => ?_) (fun v => ?_)
    · rw [← hflags x, hu]
      simp [State.trapFlag, State.withInputs, hint]
    · have hsources : s.begin.beforeArbitrate.ifBit v = s1.ifBit v ∧ s.begin.beforeArbitrate.ieBit v = s1.ieBit v ∧
          s.begin.beforeArbitrate.ipField v = s1.ipField v := by
        rw [hu]
        simp [State.ifBit, State.ieBit, State.ipField, State.withInputs]
      obtain ⟨hif, hie, hip⟩ := hsources
      by_cases hon : s1.ifBit v = true ∧ s1.ieBit v = true
      · refine eligible_of_cpuPri ?_
        rw [hip, hpri]
        exact hlow v hon.1 hon.2
      · rw [State.eligible, hif, hie]
        rw [not_and_or] at hon
        obtain h | h := hon <;> simp [h]
  have hend : s.begin.endSlot = s.begin.beforeArbitrate := by
    by_cases hrun : s.begin.beforeArbitrate.mode = .run
    · rw [endSlot_of_run hnoconf hrun, arbitrate_of_none hnone]
    · exact endSlot_of_sleep hnoconf hrun
  refine ⟨s.begin.beforeArbitrate, ?_, ?_⟩
  · rw [step_slot hslot, if_pos hx, hend]
  refine ⟨by simp [State.beforeArbitrate], by simp [State.beforeArbitrate],
    fun n => getW_congr (by simp [State.beforeArbitrate]) n,
    ⟨by simp [State.beforeArbitrate], by simp [State.beforeArbitrate]⟩,
    ⟨by simp [hu, State.withInputs], by simp [hu, State.withInputs], by simp [hu, State.withInputs]⟩,
    fun a => ramByte_congr (by simp [State.beforeArbitrate]) (by simp [State.beforeArbitrate]) a,
    by simp [hu, State.withInputs], ?_⟩
  have hslot1 : ((s1.withInputs rest).count 1).slot.raised = .none := by
    rw [count_slot]; exact hraised
  have hmode1 : ((s1.withInputs rest).count 1).mode ≠ .run := by
    rw [count_mode]; exact fun h => hm (hmode.symm.trans h)
  rw [show s.begin.beforeArbitrate.mode = ((s1.withInputs rest).count 1).wake.mode by rw [hu], wake_run_iff hmode1 hslot1]
  simp only [State.implemented, State.ifBit, State.ieBit, State.ipField, count_cfg, count_ifs, count_iec, count_ipc,
    State.withInputs]

end Sys2Proof.Machine
end

section
/-!
PROOFS. The frame of an entry (R205, R206), the vector (R209), and the returns that pop a frame (R126, R142).
-/

namespace Sys2Proof.Machine

/-! ### What a change of the data part keeps -/

/-- `t` is `s` but for the PC, the working registers, SR, CORCON, data memory and the marks of the slot: the change of a plain data
instruction. -/
def State.DataChange (s t : State) : Prop :=
  ∃ p b w r c wr m sl f, t = { s with
    pc := p, pcBeyond := b, w := w, sr := r, corcon := c, wrinh := wr, mem := m, slot := sl, freeCount := f }

theorem State.DataChange.sameSystem {s t : State} (h : s.DataChange t) : SameSystem s t := by
  obtain ⟨_, _, _, _, _, _, _, _, _, rfl⟩ := h
  exact ⟨⟨rfl, rfl, rfl⟩, ⟨rfl, rfl, rfl⟩, ⟨rfl, rfl, rfl, rfl, rfl, rfl, rfl, rfl, rfl, rfl, rfl⟩, rfl, ⟨rfl, rfl, rfl, rfl⟩⟩

theorem State.DataChange.trans {s t u : State} (h : s.DataChange t) (h' : t.DataChange u) : s.DataChange u := by
  obtain ⟨_, _, _, _, _, _, _, _, _, rfl⟩ := h
  obtain ⟨_, _, _, _, _, _, _, _, _, rfl⟩ := h'
  exact ⟨_, _, _, _, _, _, _, _, _, rfl⟩

theorem State.Accessed.dataChange {D : WReg → Prop} {s u : State} (h : State.Accessed D s.begin u) : s.DataChange u := by
  obtain ⟨_, _, _, _, rfl⟩ := h.same
  exact ⟨_, _, _, _, _, _, _, _, _, rfl⟩

theorem State.Ended.dataChange {s t : State} (h : s.Ended t) : s.DataChange t := by
  obtain ⟨_, _, _, rfl⟩ := h
  exact ⟨_, _, _, _, _, _, _, _, _, rfl⟩

theorem sameBytes_of_mem {s t : State} (hm : t.mem = s.mem) (he : t.epoch = s.epoch) : SameBytes s t := ramByte_congr hm he

/-- An instruction that ends after reads and loads of working registers changes nothing else. -/
theorem State.Accessed.ended {D : WReg → Prop} {s u t : State} (h : State.Accessed D s.begin u) (e : u.Ended t) :
    SameStatus s t ∧ SameSystem s t ∧ SameBytes s t ∧ ∀ n, ¬ D n → t.getW n = s.getW n := by
  have hsys := (h.dataChange.trans e.dataChange).sameSystem
  have hw := h.otherW
  obtain ⟨_, _, _, rfl⟩ := e
  obtain ⟨_, _, _, _, rfl⟩ := h.same
  exact ⟨⟨rfl, rfl⟩, hsys, sameBytes_of_mem rfl rfl, hw⟩

/-! ### Words of memory -/

/-- A word store leaves a word that shares no byte with it alone. -/
theorem ramWord_putRamWord_other (s : State) {a c : DataAddr} (v : Word) (h : c ≠ a) (h1 : c ≠ a + 1) (h2 : c + 1 ≠ a)
    (h3 : c + 1 ≠ a + 1) : (s.putRamWord a v).ramWord c = s.ramWord c := by
  simp only [State.ramWord, putRamWord_cfg, ramByte_putRamWord_other s v h h1, ramByte_putRamWord_other s v h2 h3]

/-! ### The frame of an entry -/

section Entry

variable {s : State} (src : Source) (h : s.FrameInRam) (hw : s.wrinh = false)

include h hw

/-- The memory of an entry is that of its two word stores. -/
theorem enter_mem : (s.enter src).mem =
    ((s.putRamWord s.sp (frameLow s.pc)).putRamWord (s.sp + 2) (frameHigh s.srl s.ipl3 s.pc)).mem := by
  simp [State.enter, pushFrame_ram h hw]

theorem enter_ramByte (a : DataAddr) (h0 : a ≠ s.sp) (h1 : a ≠ s.sp + 1) (h2 : a ≠ s.sp + 2) (h3 : a ≠ s.sp + 3) :
    (s.enter src).ramByte a = s.ramByte a := by
  have hodd : s.sp + 2 + 1 = s.sp + 3 := by bv_omega
  rw [ramByte_congr (enter_mem src h hw) (by simp), ramByte_putRamWord_other _ _ h2 (hodd ▸ h3),
    ramByte_putRamWord_other _ _ h0 h1]

theorem enter_low : (s.enter src).ramWord s.sp = frameLow s.pc := by
  rw [ramWord_congr (enter_mem src h hw) (by simp) (by simp), ramWord_putRamWord_other, ramWord_putRamWord_same]
  all_goals bv_omega

theorem enter_high : (s.enter src).ramWord (s.sp + 2) = frameHigh s.srl s.ipl3 s.pc := by
  rw [ramWord_congr (enter_mem src h hw) (by simp) (by simp), ramWord_putRamWord_same]

theorem enter_w : (s.enter src).w = (s.putW 15 (s.sp + 4)).w := by
  simp [State.enter, pushFrame_ram h hw]

theorem enter_sp : (s.enter src).sp = s.sp + 4 := by
  have heven : (s.sp + 4).getLsbD 0 = false := by
    have := even_add_two (even_add_two (sp_even s))
    rwa [show s.sp + 2 + 2 = s.sp + 4 by bv_omega] at this
  rw [State.sp, getW_congr (enter_w src h hw), getW_putW, if_pos rfl, if_pos rfl]
  exact and_FFFE_of_even heven

theorem enter_otherW : SameOtherW 15 s (s.enter src) := fun n hn => by
  rw [getW_congr (enter_w src h hw), getW_putW, if_neg hn]

theorem enter_sources : SameSources s (s.enter src) := by
  constructor <;> simp [State.enter, pushFrame_ram h hw]

theorem enter_sr_bit {b : Nat} (hb : b < 5 ∨ 8 ≤ b) : (s.enter src).sr.getLsbD b = s.sr.getLsbD b := by
  have hout : ¬ (5 ≤ b ∧ b < 8) := by omega
  rw [enter_sr, pushFrame_ram h hw]
  cases src <;> exact (getLsbD_srWithIpl _ _ _).trans (if_neg hout)

theorem enter_corcon_bit {b : Nat} (hb : b ≠ 3) : (s.enter src).corcon.getLsbD b = s.corcon.getLsbD b := by
  rw [enter_corcon, pushFrame_ram h hw]
  cases src with
  | irq v => rfl
  | trap x => exact (getLsbD_setBit _ _ _ _).trans (if_neg fun hb' => hb hb'.1)

theorem enter_raised : (s.enter src).slot.raised = { s.slot.raised with
    stk := s.slot.raised.stk || s.stackFaulty s.sp || s.stackFaulty (s.sp + 2) || decide (0xFFFF < s.sp.toNat + 4) } := by
  have heven := (bit_zero_eq_false_iff _).1 (sp_even s)
  have hlt := s.sp.isLt
  have hwrap : (decide (0xFFFF < s.sp.toNat + 2) || decide (0xFFFF < (s.sp + 2).toNat + 2)) =
      decide (0xFFFF < s.sp.toNat + 4) := by
    rw [toNat_add_two, ← Bool.decide_or, decide_eq_decide]
    omega
  rw [enter_slot, pushFrame_ram h hw, ← hwrap]
  generalize s.stackFaulty s.sp = A, s.stackFaulty (s.sp + 2) = B, decide (0xFFFF < s.sp.toNat + 2) = C,
    decide (0xFFFF < (s.sp + 2).toNat + 2) = D
  dsimp only
  cases A <;> cases B <;> cases C <;> cases D <;> simp [TrapSet.insert]

end Entry

/-- Settles O48: the entry is its two pushes, seen through the lemmas above. -/
theorem entryPushesFrame : Obligations.EntryPushesFrame := by
  intro s src h hw
  refine ⟨enter_low src h hw, enter_high src h hw, enter_sp src h hw, enter_otherW src h hw, enter_ramByte src h hw,
    enter_sources src h hw, enter_control src h hw, fun b => enter_sr_bit src h hw, fun b => enter_corcon_bit src h hw,
    ?_, ?_, ?_, ?_, rfl, enter_pcBeyond s src, ?_, ?_, enter_skidStack s src, enter_skidMath s src, enter_raised src h hw⟩
  · simp [State.enter, pushFrame_ram h hw]
  · simp [State.enter, pushFrame_ram h hw]
  · simp [State.enter, pushFrame_ram h hw]
  · simp [State.enter, pushFrame_ram h hw]
  · rw [enter_stallOsc, bne, beq_eq_decide, decide_not]
  · rw [enter_stallAddr, bne, beq_eq_decide, decide_not]

/-- Settles O49: CPUPRI is at least the priority of the source after its entry. -/
theorem interruptEntrySetsPriority : Obligations.InterruptEntrySetsPriority := by
  intro s v h hw hipl3
  have hnst : s.pushFrame.nstdis = s.nstdis := by
    rw [pushFrame_ram h hw]; rfl
  have hipl : (s.enter (.irq v)).ipl = if s.nstdis then 7 else s.ipField v := by rw [enter_irq_ipl, hnst]
  have hfield : ∀ u, (s.enter (.irq v)).ipField u = s.ipField u := fun u => by
    simp only [State.ipField, (enter_sources (.irq v) h hw).ipc]
  refine ⟨hipl, ?_, fun u hu => eligible_of_cpuPri ?_, fun hn => eligible_of_seven ?_⟩
  · rw [State.ipl3, enter_corcon, pushFrame_ram h hw]
    exact hipl3
  · rw [hfield]
    exact hu.trans (sourcePri_le_enter_cpuPri s (.irq v))
  · refine le_trans ?_ (ipl_le_cpuPri _)
    rw [hipl, hn]
    exact le_rfl

/-- Settles O51: the pushes onto ordinary memory leave ALTIVT and the program alone. -/
theorem entryLoadsVector : Obligations.EntryLoadsVector := by
  intro s src a h hw ha hi
  have hvec : vecAddr (s.pushFrame.enterPriority src (s.sourcePri src)).altivt src.index = a := by
    rw [ha, State.altivt, enterPriority_intcon2, pushFrame_ram h hw]
    cases src <;> rfl
  have hread : (s.pushFrame.enterPriority src (s.sourcePri src)).progRead a =
      (s.progWord a, s.pushFrame.enterPriority src (s.sourcePri src)) := by
    rw [State.progRead, enterPriority_cfg, pushFrame_cfg, if_pos hi, State.progWord, State.progWord, enterPriority_prog,
      pushFrame_prog]
  simp only [State.enter, leaveStall_pc, State.loadVector, setPc_pc, hvec, hread]

/-! ### RETFIE and RETURN -/

/-- The marks of the two pops from ordinary memory: the stack error alone. -/
theorem popFrame_onlyStackError {s : State} (h1 : s.RamAt (s.sp - 2)) (h2 : s.RamAt (s.sp - 4)) :
    OnlyStackError s.begin.popFrame.2.2.slot.raised (s.stackFaulty (s.sp - 2) || s.stackFaulty (s.sp - 4)) := by
  rw [popFrame_ram (s := s.begin) (ramAt_congr (s := s) rfl h1) (ramAt_congr (s := s) rfl h2)]
  change (if (s.stackFaulty (s.sp - 2) || s.stackFaulty (s.sp - 4)) = true then _ else _) = _
  cases s.stackFaulty (s.sp - 2) || s.stackFaulty (s.sp - 4) <;> rfl

theorem popFrame_words {s : State} (h1 : s.RamAt (s.sp - 2)) (h2 : s.RamAt (s.sp - 4)) :
    s.begin.popFrame.1 = s.ramWord (s.sp - 2) ∧ s.begin.popFrame.2.1 = s.ramWord (s.sp - 4) := by
  rw [popFrame_ram (s := s.begin) (ramAt_congr (s := s) rfl h1) (ramAt_congr (s := s) rfl h2)]
  exact ⟨rfl, rfl⟩

/-- Settles O17: RETURN is the two pops and the load of the PC. -/
theorem returnPopsPc : Obligations.ReturnPopsPc := by
  refine ⟨encodeThenDecodeGivesInstruction .ret [] rfl, fun s => ?_⟩
  obtain ⟨hstatus, hsys, hbytes, hotherW⟩ := State.Accessed.ended (t := (s.begin.popFrame.2.2.setPc
    (framePc s.begin.popFrame.1 s.begin.popFrame.2.1)).took 3) (.popFrame (D := (· = 15)) rfl _) ⟨_, _, _, rfl⟩
  refine ⟨_, rfl, popFrame_sp s.begin, hotherW, hstatus, rfl, hsys, hbytes, fun h1 h2 => ⟨?_, popFrame_onlyStackError h1 h2⟩⟩
  obtain ⟨hhi, hlo⟩ := popFrame_words h1 h2
  exact congrArg₂ framePc hhi hlo

/-- Settles O13: RETFIE is the two pops, then PC, SRL and IPL3 from the words popped. -/
theorem retfieRestoresFromFrame : Obligations.RetfieRestoresFromFrame := by
  refine ⟨encodeThenDecodeGivesInstruction .retfie [] rfl, fun s => ⟨sp_even s, ?_⟩⟩
  have hpops : State.Accessed (· = 15) s.begin s.begin.popFrame.2.2 := State.Accessed.popFrame (D := (· = 15)) rfl _
  refine ⟨_, rfl, popFrame_sp s.begin, hpops.otherW, ?_, fun b hb => ?_, rfl,
    (hpops.dataChange.trans ⟨_, _, _, _, _, _, _, _, _, rfl⟩).sameSystem,
    sameBytes_of_mem (popFrame_state_mem s.begin) (popFrame_state_epoch s.begin), fun h1 h2 => ?_⟩
  · exact (hiByte_srWithSrl _ _).trans (congrArg hiByte (popFrame_state_sr s.begin))
  · exact (getLsbD_setBit _ _ _ _).trans ((if_neg fun hb' => hb hb'.1).trans
      (congrArg (BitVec.getLsbD · b) (popFrame_state_corcon s.begin)))
  · obtain ⟨hhi, hlo⟩ := popFrame_words h1 h2
    refine ⟨congrArg₂ framePc hhi hlo, ?_, ?_, popFrame_onlyStackError h1 h2⟩
    · exact (loByte_srWithSrl _ _).trans (congrArg hiByte hhi)
    · exact (getLsbD_setBit _ _ _ _).trans ((if_pos ⟨rfl, by decide⟩).trans (congrArg (BitVec.getLsbD · 7) hhi))

/-! ### An entry and the RETFIE after it -/

/-- The frame of an even PC gives that PC back (R86, R126). -/
theorem framePc_frame {pc : ProgAddr} (h : pc.getLsbD 0 = false) (l : Byte) (b : Bool) :
    framePc (frameHigh l b pc) (frameLow pc) = pc := by
  have heven := (bit_zero_eq_false_iff pc).1 h
  apply BitVec.eq_of_toNat_eq
  have hlt := pc.isLt
  have hb := (BitVec.ofBool b).isLt
  simp only [framePc, frameHigh, frameLow, toNat_append_eq, toNat_slice, BitVec.toNat_ofNat]
  omega

theorem hiByte_frameHigh (l : Byte) (b : Bool) (pc : ProgAddr) : hiByte (frameHigh l b pc) = l := by
  apply BitVec.eq_of_toNat_eq
  have hb := (BitVec.ofBool b).isLt
  have hl := l.isLt
  simp only [hiByte, frameHigh, toNat_append_eq, toNat_slice]
  omega

theorem frameHigh_bit_7 (l : Byte) (b : Bool) (pc : ProgAddr) : (frameHigh l b pc).getLsbD 7 = b := by
  rw [frameHigh, BitVec.getLsbD_append, if_neg (by decide), BitVec.getLsbD_append, if_pos (by decide)]
  cases b <;> rfl

/-- Two words with the same two bytes are the same. -/
theorem word_ext_bytes {x y : Word} (hh : hiByte x = hiByte y) (hl : loByte x = loByte y) : x = y := by
  rw [← hiByte_append_loByte x, ← hiByte_append_loByte y, hh, hl]

/-- Settles O14: RETFIE takes from the frame what the entry put there; the entry changed nothing else. -/
theorem entryThenRetfieRestores : Obligations.EntryThenRetfieRestores := by
  intro s src h hw hpc
  obtain ⟨-, t, ht, hsp, hotherW, hhi, hcorcon, -, hsys, hbytes, hframe⟩ := retfieRestoresFromFrame.2 (s.enter src)
  have hspe := enter_sp src h hw
  have h2 : (s.enter src).sp - 2 = s.sp + 2 := by rw [hspe]; bv_omega
  have h4 : (s.enter src).sp - 4 = s.sp := by rw [hspe]; bv_omega
  rw [h2, h4] at hframe
  rw [h4] at hsp
  obtain ⟨htpc, hlo, hipl3, -⟩ := hframe (ramAt_congr (by simp) h.high) (ramAt_congr (by simp) h.low)
  rw [enter_high src h hw] at htpc hlo hipl3
  rw [enter_low src h hw] at htpc
  have hcontrol := enter_control src h hw
  have hsources := enter_sources src h hw
  refine ⟨t, ht, htpc.trans (framePc_frame hpc _ _), word_ext_bytes ?_ ?_, BitVec.eq_of_getLsbD_eq fun i hi => ?_, fun n => ?_,
    ⟨hsys.control.intcon1.trans hcontrol.intcon1, hsys.control.intcon2.trans hcontrol.intcon2,
      hsys.control.disicnt.trans hcontrol.disicnt⟩,
    ⟨hsys.sources.ifs.trans hsources.ifs, hsys.sources.iec.trans hsources.iec, hsys.sources.ipc.trans hsources.ipc⟩,
    fun a h0 h1 h2 h3 => (hbytes a).trans (enter_ramByte src h hw a h0 h1 h2 h3)⟩
  · refine hhi.trans (BitVec.eq_of_getLsbD_eq fun i hi => ?_)
    simp only [getLsbD_hiByte, enter_sr_bit src h hw (b := 8 + i) (.inr (Nat.le_add_right 8 i))]
  · exact hlo.trans (hiByte_frameHigh _ _ _)
  · by_cases h3 : i = 3
    · subst h3
      exact hipl3.trans (frameHigh_bit_7 _ _ _)
    · exact (hcorcon i h3).trans (enter_corcon_bit src h hw h3)
  · by_cases hn : n = 15
    · subst hn; exact hsp
    · exact (hotherW n hn).trans (enter_otherW src h hw n hn)

end Sys2Proof.Machine
end

section
/-!
PROOFS. The instructions that write no data space: jumps, PWRSAV, NOP, DISI, the literal move and IOR (R120, R140 to R147, R150 to
R157).
-/

namespace Sys2Proof.Machine

/-! ### Loading a working register -/

/-- Clearing bit 0 rounds down to an even number. -/
theorem and_FFFE_toNat (v : Word) : (v &&& 0xFFFE#16).toNat = v.toNat / 2 * 2 := by
  have hhalf : (v &&& 0xFFFE#16) >>> 1 = v >>> 1 := by
    apply BitVec.eq_of_getLsbD_eq
    intro i hi
    simp only [BitVec.getLsbD_ushiftRight, getLsbD_and_FFFE]
    simp
  have hdiv : (v &&& 0xFFFE#16).toNat / 2 = v.toNat / 2 := by
    simpa [BitVec.toNat_ushiftRight, Nat.shiftRight_eq_div_pow] using congrArg BitVec.toNat hhalf
  have heven : (v &&& 0xFFFE#16).toNat % 2 = 0 := (bit_zero_eq_false_iff _).1 (getLsbD_and_FFFE v 0)
  omega

theorem and_FFFE_toNat_lt (v : Word) : (v &&& 0xFFFE#16).toNat < 0x0800 ↔ v.toNat < 0x0800 := by
  rw [and_FFFE_toNat]
  omega

/-- The load of a register can raise the stack error alone: of W15, below 0x0800 (R186). -/
theorem setW_raised (s : State) (n : WReg) (v : Word) : (s.setW n v).slot.raised =
    { s.slot.raised with stk := s.slot.raised.stk || (decide (n = 15) && decide (v.toNat < 0x0800)) } := by
  have hlt : decide ((v &&& 0xFFFE).toNat < 0x0800) = decide (v.toNat < 0x0800) := decide_eq_decide.2 (and_FFFE_toNat_lt v)
  rw [setW_slot, hlt]
  cases decide (n = 15) && decide (v.toNat < 0x0800)
  · rw [Bool.or_false]; rfl
  · rw [Bool.or_true]; rfl

theorem getW_setW_same (s : State) (n : WReg) (v : Word) : (s.setW n v).getW n = if n = 15 then v &&& 0xFFFE else v := by
  rw [getW_setW, if_pos rfl]

/-- Settles O26: the load of the register, and the end of the instruction. -/
theorem movLiteralLoadsRegister : Obligations.MovLiteralLoadsRegister := by
  intro k d s
  obtain ⟨hstatus, hsys, hbytes, hotherW⟩ := State.Accessed.ended
    (State.Accessed.setW (D := (· = d)) rfl s.begin k) (advance_took_ended _ 1)
  exact ⟨encodeThenDecodeGivesInstruction (.movLit k d) [] rfl, _, rfl, getW_setW_same s.begin d k, hotherW, by simp, rfl, hstatus,
    hsys, hbytes, setW_raised s.begin d k⟩

/-- Settles O37: N and Z are bits 3 and 1 of SR after the load. -/
theorem iorSetsRegisterAndFlags : Obligations.IorSetsRegisterAndFlags := by
  intro k n s
  have hload : State.Accessed (· = n) s.begin (s.begin.setW n (s.getW n ||| k.setWidth 16)) :=
    State.Accessed.setW (D := (· = n)) rfl _ _
  refine ⟨encodeThenDecodeGivesInstruction (.iorLit k n) [] rfl, _, rfl, getW_setW_same s.begin n _, hload.otherW,
    (getLsbD_srAfterIor _ _ 3).trans ?_, (getLsbD_srAfterIor _ _ 1).trans ?_, fun b h1 h3 => (getLsbD_srAfterIor _ _ b).trans ?_,
    by simp, by simp, rfl, (hload.dataChange.trans ⟨_, _, _, _, _, _, _, _, _, rfl⟩).sameSystem,
    sameBytes_of_mem (by simp) (by simp), setW_raised s.begin n _⟩
  · rfl
  · rfl
  · rw [if_neg h1, if_neg h3]

/-! ### Jumps -/

/-- A jump to a literal target goes there, and raises AddressError alone, when the target is not implemented (R193). -/
theorem jump_raised (s : State) (p : ProgAddr) :
    OnlyAddressError (s.begin.jump p).slot.raised (!s.cfg.progImplemented p) := by
  cases h : s.cfg.progImplemented p <;> simp [OnlyAddressError, State.jump, h, Slot.fresh, TrapSet.none, TrapSet.insert]

theorem jump_frame (s : State) (p : ProgAddr) (c : Nat) : SameW s ((s.begin.jump p).took c) ∧
    SameStatus s ((s.begin.jump p).took c) ∧ SameSystem s ((s.begin.jump p).took c) ∧ SameBytes s ((s.begin.jump p).took c) := by
  obtain ⟨hstatus, hsys, hbytes, hw⟩ := State.Accessed.ended (t := (s.begin.jump p).took c)
    (State.Accessed.raiseIf (fun _ => False) s.begin (!s.cfg.progImplemented p) .addressError) (jump_ended s.begin p c)
  exact ⟨fun n => hw n id, hstatus, hsys, hbytes⟩

/-- Settles O15. -/
theorem gotoJumpsAndChecksTarget : Obligations.GotoJumpsAndChecksTarget := by
  refine fun hi lo s => ⟨?_, fun target => ⟨_, rfl, rfl, rfl, jump_raised s target, jump_frame s target 2⟩⟩
  have hlo : (hi ++ lo ++ 0#1).extractLsb' 1 15 = lo := by
    apply BitVec.eq_of_toNat_eq
    have := lo.isLt
    simp only [toNat_append_eq, toNat_slice, BitVec.toNat_ofNat]
    omega
  have hhi : (hi ++ lo ++ 0#1).extractLsb' 16 7 = hi := by
    apply BitVec.eq_of_toNat_eq
    have := lo.isLt
    have := hi.isLt
    simp only [toNat_append_eq, toNat_slice, BitVec.toNat_ofNat]
    omega
  have h := decodeWords_goto (append_zero_bit_zero (hi ++ lo)) []
  rwa [encode, hlo, hhi] at h

theorem braTarget_eq (pc : ProgAddr) (n : BitVec 16) : braTarget pc n = BitVec.ofInt 23 (pc.toNat + 2 + 2 * n.toInt) := by
  rw [BitVec.ofInt_add, BitVec.ofInt_add, BitVec.ofInt_mul, BitVec.ofInt_natCast, BitVec.ofNat_toNat, BitVec.setWidth_eq, braTarget,
    BitVec.shiftLeft_eq_mul_twoPow, BitVec.mul_comm]
  rfl

/-- Settles O16. -/
theorem braJumpsRelative : Obligations.BraJumpsRelative := fun n _ =>
  ⟨encodeThenDecodeGivesInstruction (.bra n) [] rfl, _, rfl, braTarget_eq _ n, rfl, jump_raised _ _, jump_frame _ _ 2⟩

/-! ### PWRSAV, NOP and DISI -/

/-- Settles O20. -/
theorem pwrsavEntersMode : Obligations.PwrsavEntersMode := fun k _ =>
  ⟨encodeThenDecodeGivesInstruction (.pwrsav k) [] rfl, _, rfl, rfl, rfl, rfl, rfl, fun _ => rfl, ⟨rfl, rfl⟩, ⟨rfl, rfl, rfl⟩,
    ⟨rfl, rfl, rfl⟩, ⟨rfl, rfl, rfl, rfl, rfl, rfl, rfl, rfl, rfl, rfl, rfl⟩, ⟨rfl, rfl, rfl, rfl⟩, fun _ => rfl⟩

/-- Settles O21. -/
theorem nopAdvancesPcOnly : Obligations.NopAdvancesPcOnly := by
  refine ⟨fun x => ?_, fun s => ?_⟩
  · have hx := x.isLt
    have hop : (0x00#8 ++ x).toNat / 2 ^ 16 = 0x00 := by
      rw [toNat_append_eq, BitVec.toNat_ofNat]
      omega
    have hone : isTwoWord (0x00#8 ++ x) = false := Bool.eq_false_iff.2 fun h => by
      have h4 := ((isTwoWord_iff _).1 h).1
      omega
    exact decodeWords_one_word hone (decode_nop _ hop) []
  · exact ⟨_, rfl, rfl, rfl, rfl, fun _ => rfl, ⟨rfl, rfl⟩, State.DataChange.sameSystem ⟨_, _, _, _, _, _, _, _, _, rfl⟩,
      fun _ => rfl⟩

/-- Settles O11: the marks of a DISI slot make its count the mask alone (R123). -/
theorem disiLoadsCounterAndMasks : Obligations.DisiLoadsCounterAndMasks := by
  intro k s
  refine ⟨encodeThenDecodeGivesInstruction (.disi k) [] rfl, _, rfl, rfl, (getLsbD_setBit _ _ _ _).trans (if_pos ⟨rfl, by decide⟩),
    fun b hb => (getLsbD_setBit _ _ _ _).trans (if_neg fun h => hb h.1), rfl, fun n => ?_, rfl, rfl, rfl, fun _ => rfl, ⟨rfl, rfl⟩,
    ⟨rfl, rfl, rfl⟩, ⟨rfl, rfl, rfl, rfl, rfl, rfl, rfl, rfl, rfl, rfl, rfl⟩, rfl, ⟨rfl, rfl, rfl, rfl⟩, fun _ => rfl⟩
  rw [count_of_disi n rfl]
  exact ⟨rfl, rfl⟩

/-! ### The OR into SRL -/

/-- What the OR of 0xE0 leaves in SR: IPL<2:0> all 1, or SR as it was while NSTDIS = 1. -/
theorem orIplIntoSrl_sr (s : State) : s.orIplIntoSrl.sr = if s.nstdis then s.sr else srWithIpl s.sr 7 := by
  change blend s.srWritable s.sr (withLane false (0x01FF#16 &&& s.sr) (loByte (0x01FF#16 &&& s.sr) ||| 0xE0#8)) = _
  rw [State.srWritable]
  apply BitVec.eq_of_getLsbD_eq
  intro i hi
  simp only [getLsbD_blend, getLsbD_withLane, BitVec.getLsbD_or, getLsbD_loByte, BitVec.getLsbD_and]
  cases s.nstdis <;> interval_cases i <;> simp

/-- Settles O59: the value of SR after the OR. -/
theorem orIntoSrlDisablesUserInterrupts : Obligations.OrIntoSrlDisablesUserInterrupts := by
  intro s
  refine ⟨State.DataChange.sameSystem ⟨_, _, _, _, _, _, _, _, _, rfl⟩, fun _ => rfl, fun _ => rfl, fun hn => ?_, fun hn => ?_⟩
  · rw [orIplIntoSrl_sr, hn]; rfl
  · have hsr : s.orIplIntoSrl.sr = srWithIpl s.sr 7 := by rw [orIplIntoSrl_sr, hn]; rfl
    have hipl : s.orIplIntoSrl.ipl = 7 := by rw [State.ipl, hsr, ipl_of_srWithIpl]
    refine ⟨hipl, ?_, fun b hb => ?_⟩
    · have h := ipl_le_cpuPri s.orIplIntoSrl
      rwa [hipl] at h
    · rw [hsr, getLsbD_srWithIpl, if_neg (by omega)]

end Sys2Proof.Machine
end

section
/-!
PROOFS. The instructions that move a word between data space, the working registers and the stack: the MOV forms, PUSH and POP
(R145, R146, R152 to R158).
-/

namespace Sys2Proof.Machine

/-! ### File addresses -/

theorem decodeWords_of_encode {i : Instr} {ws : List ProgWord} (hwf : i.wellFormed = true) (h : encode i = ws) :
    decodeWords ws = .ok (i, []) := by
  have hd := encodeThenDecodeGivesInstruction i [] hwf
  rwa [List.append_nil, h] at hd

theorem slice_append_zero {w : Nat} (x : BitVec w) : (x ++ 0#1).extractLsb' 1 w = x := by
  apply BitVec.eq_of_toNat_eq
  have hx := x.isLt
  have hhalf : (x.toNat * 2 ^ 1 + 0 % 2 ^ 1) / 2 ^ 1 = x.toNat := by omega
  rw [toNat_slice, toNat_append_eq, BitVec.toNat_ofNat, hhalf, Nat.mod_eq_of_lt hx]

theorem not_bit_zero {w : Nat} (x : BitVec w) : (!(x ++ 0#1).getLsbD 0) = true := by
  rw [append_zero_bit_zero]
  rfl

/-! ### What a completed data instruction leaves -/

/-- A change of the data part that writes neither SR, CORCON nor data memory. -/
theorem State.DataChange.frame {s t : State} (h : s.DataChange t) (hsr : t.sr = s.sr) (hcorcon : t.corcon = s.corcon)
    (hmem : t.mem = s.mem) : SameStatus s t ∧ SameSystem s t ∧ SameBytes s t :=
  ⟨⟨hsr, hcorcon⟩, h.sameSystem, sameBytes_of_mem hmem h.sameSystem.outside.epoch⟩

theorem begin_dataChange (s : State) : s.DataChange s.begin := ⟨_, _, _, _, _, _, _, _, _, rfl⟩

theorem putRamWord_dataChange (s : State) (a : DataAddr) (v : Word) : s.DataChange (s.putRamWord a v) := by
  unfold State.putRamWord
  split <;> exact ⟨_, _, _, _, _, _, _, _, _, rfl⟩

theorem setW_dataChange (s : State) (n : WReg) (v : Word) : s.DataChange (s.setW n v) := by
  unfold State.setW State.raiseIf
  split <;> exact ⟨_, _, _, _, _, _, _, _, _, rfl⟩

theorem noteWrite_dataChange (s : State) (r : Sfr) (z : Word) : s.DataChange (s.noteWrite r z) :=
  ⟨_, _, _, _, _, _, _, _, _, rfl⟩

/-- A software write of the data-space image of a working register. -/
theorem swrite_w_dataChange (s : State) (m : WReg) (v : Word) : s.DataChange (s.swrite (.w m) v) :=
  (setW_dataChange s m v).trans (noteWrite_dataChange _ _ _)

theorem advance_took_dataChange (s : State) (c : Nat) : s.DataChange (s.advance.took c) := (advance_took_ended s c).dataChange

/-! ### Stores that are not refused -/

theorem sfrIs_congr {s t : State} {a : DataAddr} {r : Sfr} (hc : t.cfg = s.cfg) (h : s.SfrIs a r) : t.SfrIs a r :=
  ⟨h.even, hc ▸ h.implemented, hc ▸ h.here⟩

theorem State.RamAt.begin {s : State} {a : DataAddr} (h : s.RamAt a) : s.begin.RamAt a := ramAt_congr (s := s) rfl h

theorem State.SfrIs.begin {s : State} {a : DataAddr} {r : Sfr} (h : s.SfrIs a r) : s.begin.SfrIs a r :=
  sfrIs_congr (s := s) rfl h

theorem storeWord_accepted {s : State} {a : DataAddr} {v : Word} (h : (s.writesRcon a && v.getLsbD 15) = false) :
    s.storeWord a v = .ok (s.writeWord a v) := by
  rw [State.storeWord, h]
  rfl

theorem pushWord_accepted {s : State} {v : Word} (h : (s.writesRcon s.sp && v.getLsbD 15) = false) :
    s.pushWord v = .ok (s.push16 v) :=
  if_neg (Bool.eq_false_iff.1 h)

theorem storeWord_ram {s : State} {a : DataAddr} (v : Word) (h : s.RamAt a) (hw : s.wrinh = false) :
    s.storeWord a v = .ok (s.putRamWord a v) := by
  rw [storeWord_accepted, writeWord_ram v h hw]
  rw [writesRcon_false (by simp [h.noSfr])]
  rfl

theorem storeWord_sfr {s : State} {a : DataAddr} {r : Sfr} {v : Word} (h : s.SfrIs a r) (hw : s.wrinh = false)
    (hr : r ≠ .rcon ∨ v.getLsbD 15 = false) : s.storeWord a v = .ok (s.swrite r v) := by
  rw [storeWord_accepted, writeWord_sfr v h hw]
  obtain hr | hr := hr
  · rw [writesRcon_false (by simp [h.here, hr])]
    rfl
  · rw [hr, Bool.and_false]

theorem storeWord_none {s : State} {a : DataAddr} (v : Word) (he : a.getLsbD 0 = false)
    (h : s.wrinh = true ∨ s.cfg.dataImplemented a = false) : s.storeWord a v = .ok s := by
  rw [storeWord_accepted, writeWord_none v he h]
  obtain h | h := h <;> simp [State.writesRcon, h]

/-! ### MOV of a register -/

section MovToFile

variable {s : State} {f : DataAddr} (n : WReg)

theorem exec_movToFile_ram (h : s.RamAt f) :
    exec (.movToFile n f) s = .next ((s.begin.putRamWord f (s.getW n)).advance.took 1) :=
  completeStore_next.2 ⟨_, storeWord_ram _ h.begin rfl, rfl⟩

theorem exec_movToFile_sfr {r : Sfr} (h : s.SfrIs f r) (hr : r ≠ .rcon ∨ (s.getW n).getLsbD 15 = false) :
    exec (.movToFile n f) s = .next ((s.begin.swrite r (s.getW n)).advance.took 1) :=
  completeStore_next.2 ⟨_, storeWord_sfr h.begin rfl hr, rfl⟩

theorem exec_movToFile_none (he : f.getLsbD 0 = false) (h : s.cfg.dataImplemented f = false) :
    exec (.movToFile n f) s = .next (s.begin.advance.took 1) :=
  completeStore_next.2 ⟨_, storeWord_none _ he (.inr h), rfl⟩

end MovToFile

/-- Settles O27: the three places a word can go to. -/
theorem movStoresRegisterInMemory : Obligations.MovStoresRegisterInMemory := by
  refine fun x n s => ⟨?_, fun f => ⟨fun h => ?_, fun m h => ?_, fun he hi => ?_⟩⟩
  · exact decodeWords_of_encode (not_bit_zero x) (by rw [encode, slice_append_zero]; rfl)
  · refine ⟨_, exec_movToFile_ram n h, ?_, fun c h0 h1 => ?_, sameW_of_w (by simp), by simp, rfl, by simp [Slot.fresh],
      ⟨by simp, by simp⟩, ?_⟩
    · exact (ramWord_congr rfl rfl rfl f).trans (ramWord_putRamWord_same s.begin f _)
    · exact (ramByte_congr rfl rfl c).trans (ramByte_putRamWord_other s.begin _ h0 h1)
    · exact (((begin_dataChange s).trans (putRamWord_dataChange _ _ _)).trans (advance_took_dataChange _ _)).sameSystem
  · obtain ⟨hstatus, hsys, hbytes⟩ := (((begin_dataChange s).trans (swrite_w_dataChange s.begin m (s.getW n))).trans
      (advance_took_dataChange _ 1)).frame (setW_sr s.begin m (s.getW n)) (setW_corcon s.begin m (s.getW n))
      (setW_mem s.begin m (s.getW n))
    exact ⟨_, exec_movToFile_sfr n h (.inl (by simp)), getW_setW_same s.begin m _,
      fun k hk => (getW_setW s.begin m k _).trans (if_neg hk), hbytes, by simp, rfl, hstatus, hsys, setW_raised s.begin m _⟩
  · exact ⟨_, exec_movToFile_none n he hi, fun _ => rfl, fun _ => rfl, rfl, rfl, rfl, ⟨rfl, rfl⟩,
      State.DataChange.sameSystem ⟨_, _, _, _, _, _, _, _, _, rfl⟩⟩

/-! ### MOV into a working register -/

theorem rcon_read_bit (s : State) : (s.readSfr .rcon).1.getLsbD 15 = s.trapr := by
  change (blend 0x7FFF#16 (0x8000#16 &&& setBit 0 15 s.trapr) _).getLsbD 15 = _
  rw [getLsbD_blend, if_neg (by decide), BitVec.getLsbD_and, getLsbD_setBit, if_pos ⟨rfl, by decide⟩]
  exact Bool.true_and _

theorem osccon_read_bit (s : State) : (s.readSfr .osccon).1.getLsbD 3 = s.cf := by
  change (blend 0xFFF7#16 (0x0008#16 &&& setBit 0 3 s.cf) _).getLsbD 3 = _
  rw [getLsbD_blend, if_neg (by decide), BitVec.getLsbD_and, getLsbD_setBit, if_pos ⟨rfl, by decide⟩]
  exact Bool.true_and _

theorem readWord_sfr_fst {s : State} {a : DataAddr} {r : Sfr} (h : s.SfrIs a r) : (s.readWord a).1 = (s.readSfr r).1 := by
  rw [State.readWord, h.even, h.implemented, h.here]
  rfl

/-- A bit above bit 0 of what a register holds after a load is that of the value loaded. -/
theorem getW_setW_bit (s : State) (d : WReg) (v : Word) {b : Nat} (hb : b ≠ 0) :
    ((s.setW d v).getW d).getLsbD b = v.getLsbD b := by
  rw [getW_setW_same]
  split
  · exact (getLsbD_and_FFFE v b).trans (by simp [hb])
  · rfl

/-- The stack check of a load of W15 is that of the value it then holds (R186). -/
theorem w15_low_iff (s : State) (d : WReg) (v : Word) :
    (decide (d = 15) && decide (((s.setW d v).getW 15).toNat < 0x0800)) = (decide (d = 15) && decide (v.toNat < 0x0800)) := by
  by_cases hd : d = 15
  · subst hd
    have h : ((s.setW 15 v).getW 15).toNat < 0x0800 ↔ v.toNat < 0x0800 := by
      rw [getW_setW_same]
      exact and_FFFE_toNat_lt v
    rw [decide_eq_decide.2 h]
  · simp [hd]

/-- The traps of a load from an even address: the address error of the read and the stack error of W15. -/
theorem load_raised (s : State) {f : DataAddr} (d : WReg) (he : f.getLsbD 0 = false) :
    ((s.begin.readWord f).2.setW d (s.begin.readWord f).1).slot.raised = ⟨false, !s.cfg.dataImplemented f,
      decide (d = 15) && decide ((((s.begin.readWord f).2.setW d (s.begin.readWord f).1).getW 15).toNat < 0x0800), false⟩ := by
  rw [setW_raised, w15_low_iff, readWord_snd_slot, he, Bool.false_or, begin_cfg]
  cases s.cfg.dataImplemented f <;> rfl

/-- Settles O34: the read of each place, and the load of what it gave. -/
theorem movLoadsWordFromFile : Obligations.MovLoadsWordFromFile := by
  refine fun x d s => ⟨decodeWords_of_encode (not_bit_zero x) (by rw [encode, slice_append_zero]; rfl), fun f he => ?_⟩
  have hread : State.Accessed (· = d) s.begin (s.begin.readWord f).2 := .readWord _ _ _
  obtain ⟨hstatus, hsys, hbytes, hotherW⟩ := State.Accessed.ended (hread.trans (.setW (D := (· = d)) rfl _ (s.begin.readWord f).1))
    (advance_took_ended _ 1)
  have hd : ∀ v, (s.begin.readWord f).1 = v →
      ((s.begin.readWord f).2.setW d (s.begin.readWord f).1).getW d = if d = 15 then v &&& 0xFFFE else v := by
    rintro v rfl
    exact getW_setW_same _ d _
  refine ⟨_, rfl, hotherW, by simp, rfl, hstatus, hsys, hbytes, ?_, fun h => hd _ ?_, fun r h h1 h2 => hd _ ?_, fun h => ?_,
    fun h => ?_⟩
  · exact load_raised s d he
  · rw [readWord_ram h.begin]; rfl
  · rw [readWord_sfr h.begin h1 h2]; rfl
  · refine (getW_setW_bit _ d _ (by decide)).trans ?_
    rw [readWord_sfr_fst h.begin, rcon_read_bit]; rfl
  · refine (getW_setW_bit _ d _ (by decide)).trans ?_
    rw [readWord_sfr_fst h.begin, osccon_read_bit]; rfl

/-! ### MOV through a pointer -/

/-- The state in which MOV [Ws], Wd reads: the address formed from W15 has been checked (R158). -/
def State.pointerChecked (s : State) (n : WReg) : State := if n = 15 then s.begin.checkStackEA (s.getW n) else s.begin

theorem pointerChecked_eq (s : State) (n : WReg) : s.pointerChecked n = { s.begin with slot := { Slot.fresh with
    raised := ⟨false, false, decide (n = 15) && s.stackFaulty (s.getW n), false⟩ } } := by
  by_cases hn : n = 15
  · have hfa : s.begin.stackFaulty (s.getW n) = s.stackFaulty (s.getW n) := rfl
    rw [State.pointerChecked, if_pos hn, decide_eq_true hn, Bool.true_and, ← hfa, State.stackFaulty, State.checkStackEA]
    cases decide ((s.getW n).toNat < 0x0800) ||
      (s.begin.splimEn && decide ((s.begin.splim &&& 0xFFFE).toNat < (s.getW n).toNat)) <;> rfl
  · rw [State.pointerChecked, if_neg hn, decide_eq_false hn]
    rfl

theorem readIndirect_begin (s : State) (n : WReg) : s.begin.readIndirect n = (s.pointerChecked n).readWord (s.getW n) := rfl

/-- The traps of a load through a pointer: the address error of the read, and the stack errors of the pointer and of W15. -/
theorem indirect_raised (s : State) (n d : WReg) :
    ((s.begin.readIndirect n).2.setW d (s.begin.readIndirect n).1).slot.raised =
      ⟨false, (s.getW n).getLsbD 0 || !s.cfg.dataImplemented (s.getW n), decide (n = 15) && s.stackFaulty (s.getW n) ||
        decide (d = 15) && decide ((s.begin.readIndirect n).1.toNat < 0x0800), false⟩ := by
  have hcfg : (s.pointerChecked n).cfg = s.cfg := by rw [pointerChecked_eq]; rfl
  have hraised : (s.pointerChecked n).slot.raised = ⟨false, false, decide (n = 15) && s.stackFaulty (s.getW n), false⟩ := by
    rw [pointerChecked_eq]
  rw [setW_raised, readIndirect_begin, readWord_snd_slot, hcfg, hraised]
  cases (s.getW n).getLsbD 0 || !s.cfg.dataImplemented (s.getW n) <;> rfl

/-- Settles O38: the check of the pointer, the read and the load. -/
theorem movIndirectLoadsOrRaises : Obligations.MovIndirectLoadsOrRaises := by
  refine fun n d s => ⟨decodeWords_of_encode (i := .movInd n d) rfl rfl, ?_⟩
  obtain ⟨hstatus, hsys, hbytes, hotherW⟩ := State.Accessed.ended ((State.Accessed.readIndirect (· = d) s.begin n).trans
    (.setW (D := (· = d)) rfl _ (s.begin.readIndirect n).1)) (advance_took_ended _ 1)
  have hd : ∀ v, (s.begin.readIndirect n).1 = v →
      ((s.begin.readIndirect n).2.setW d (s.begin.readIndirect n).1).getW d = if d = 15 then v &&& 0xFFFE else v := by
    rintro v rfl
    exact getW_setW_same _ d _
  have hraised := indirect_raised s n d
  refine ⟨_, rfl, hotherW, by simp [readIndirect_begin, pointerChecked_eq], rfl, hstatus, hsys, hbytes,
    congrArg TrapSet.addr hraised, congrArg TrapSet.osc hraised, congrArg TrapSet.math hraised,
    fun hn hf => (congrArg TrapSet.stk hraised).trans (by rw [hf, decide_eq_true hn]; rfl),
    fun hn hd => (congrArg TrapSet.stk hraised).trans (by simp [hn, hd]), fun h => hd _ ?_, fun r h h1 h2 => hd _ ?_⟩
  · have h' : (s.pointerChecked n).RamAt (s.getW n) := ramAt_congr (s := s) (by simp [pointerChecked_eq]) h
    rw [readIndirect_begin, readWord_ram h', pointerChecked_eq]; rfl
  · have h' : (s.pointerChecked n).SfrIs (s.getW n) r := sfrIs_congr (s := s) (by simp [pointerChecked_eq]) h
    rw [readIndirect_begin, readWord_sfr h' h1 h2, pointerChecked_eq]; rfl

/-! ### PUSH -/

/-- The machine after a push of a word onto ordinary memory, in the first cycle of an instruction. -/
def State.pushed (s : State) (v : Word) : State :=
  { s.begin with
    mem := (s.putRamWord s.sp v).mem
    w := (s.putW 15 (s.sp + 2)).w
    slot := { Slot.fresh with raised := ⟨false, false, s.stackFaulty s.sp || decide (0xFFFF < s.sp.toNat + 2), false⟩ } }

theorem push16_begin {s : State} (v : Word) (h : s.RamAt s.sp) : s.begin.push16 v = s.pushed v := by
  have hmem : (s.begin.putRamWord s.sp v).mem = (s.putRamWord s.sp v).mem :=
    putRamWord_mem_congr (s := s) (t := s.begin) rfl rfl _ _
  have hraised : ∀ b : Bool, (if b then TrapSet.none.insert .stackError else TrapSet.none) = ⟨false, false, b, false⟩ := by
    rintro (_ | _) <;> rfl
  rw [push16_ram v (s := s.begin) h.begin rfl]
  exact State.ext rfl rfl rfl rfl rfl rfl rfl rfl rfl rfl rfl rfl rfl rfl rfl rfl rfl rfl rfl rfl rfl rfl rfl rfl rfl hmem rfl
    (congrArg (fun r => { Slot.fresh with raised := r }) (hraised _)) rfl rfl rfl

theorem putW_15_next (s : State) : (s.putW 15 (s.sp + 2)).getW 15 = s.sp + 2 := by
  rw [getW_putW, if_pos rfl, if_pos rfl]
  exact and_FFFE_of_even (even_add_two (sp_even s))

/-- Settles O22: the read, the check of the address, the store and the new W15. -/
theorem pushStoresAtStackPointer : Obligations.PushStoresAtStackPointer := by
  refine fun x s => ⟨decodeWords_of_encode (not_bit_zero x) (by rw [encode, slice_append_zero]), fun f v hsp hv => ?_⟩
  have hread : s.begin.readWord f = (v, s.begin) := by
    obtain ⟨h, rfl⟩ | ⟨r, h, h1, h2, rfl⟩ := hv
    · rw [readWord_ram h.begin]; rfl
    · rw [readWord_sfr h.begin h1 h2]; rfl
  have hrcon : s.begin.writesRcon s.begin.sp = false := writesRcon_false (by
    rw [show s.begin.cfg.sfrAt s.begin.sp = none from hsp.noSfr]; simp)
  have hpush : s.begin.pushWord v = .ok (s.pushed v) := by
    rw [pushWord_accepted (by rw [hrcon]; rfl), push16_begin v hsp]
  have hexec : exec (.push f) s = .next ((s.pushed v).advance.took 1) :=
    completeStore_next.2 ⟨_, by rw [hread]; exact hpush, rfl⟩
  have hmem : ∀ c, ((s.pushed v).advance.took 1).ramByte c = (s.putRamWord s.sp v).ramByte c :=
    ramByte_congr rfl (putRamWord_epoch s s.sp v).symm
  refine ⟨_, hexec, ?_, fun c h0 h1 => (hmem c).trans (ramByte_putRamWord_other s v h0 h1), putW_15_next s,
    fun n hn => ?_, rfl, rfl, ⟨rfl, rfl⟩, State.DataChange.sameSystem ⟨_, _, _, _, _, _, _, _, _, rfl⟩, rfl⟩
  · exact (ramWord_congr (s := s.putRamWord s.sp v) (t := (s.pushed v).advance.took 1) rfl (putRamWord_epoch s s.sp v).symm
      (putRamWord_cfg s s.sp v).symm _).trans
      (ramWord_putRamWord_same s s.sp v)
  · exact (getW_putW s 15 n _).trans (if_neg hn)

/-- A push under WRINH stores nothing: it checks the address and the wrap, and takes W15 up by 2 (R195). -/
theorem push16_inhibited {s : State} (v : Word) (h : s.wrinh = true) : ∃ c,
    s.push16 v = ((s.checkStackEA s.sp).raiseIf c .stackError).setW 15 (s.sp + 2) := by
  have hnone : (s.checkStackEA s.sp).writeWord s.sp v = s.checkStackEA s.sp :=
    writeWord_none v (sp_even s) (.inl (by simpa using h))
  have hsp : s.getW 15 = s.sp := rfl
  have hw : ∀ c, ((s.checkStackEA s.sp).raiseIf c .stackError).getW 15 = s.sp := fun c => getW_congr (by simp) 15
  refine ⟨decide (0xFFFF < ((s.checkStackEA s.sp).getW 15).toNat + 2), ?_⟩
  simp only [State.push16, hsp, hnone]
  exact congrArg (fun w => State.setW _ 15 (w + 2)) (hw _)

theorem writesRcon_inhibited {s : State} (h : s.wrinh = true) (a : DataAddr) : s.writesRcon a = false := by
  rw [State.writesRcon, h, Bool.not_true, Bool.and_false]
  rfl

/-- Settles O23: the read raises the address error, so the push stores nothing. -/
theorem pushOfUnimplementedStoresNothing : Obligations.PushOfUnimplementedStoresNothing := by
  intro f s hi _
  have hwrinh : (s.begin.readWord f).2.wrinh = true := by simp [hi]
  obtain ⟨c, hshape⟩ := push16_inhibited (s.begin.readWord f).1 hwrinh
  have hsp : (s.begin.readWord f).2.sp = s.sp := getW_congr (readWord_snd_w s.begin f) 15
  rw [hsp] at hshape
  have hacc : State.Accessed (· = 15) s.begin ((s.begin.readWord f).2.push16 (s.begin.readWord f).1) := by
    rw [hshape]
    exact (((State.Accessed.readWord _ _ _).trans (.checkStackEA _ _ _)).trans (.raiseIf _ _ _ _)).trans
      (.setW (D := (· = 15)) rfl _ _)
  obtain ⟨hstatus, hsys, hbytes, hotherW⟩ := hacc.ended (advance_took_ended _ 1)
  have hexec : exec (.push f) s = .next (((s.begin.readWord f).2.push16 (s.begin.readWord f).1).advance.took 1) :=
    completeStore_next.2 ⟨_, pushWord_accepted (by rw [writesRcon_inhibited hwrinh]; rfl), rfl⟩
  refine ⟨_, hexec, ?_, hbytes, ?_, hotherW, by simp, hstatus, hsys⟩
  · exact hacc.inhibits rfl |>.trans (by simpa using hwrinh)
  · rw [hshape]
    exact (getW_setW_same _ 15 _).trans (and_FFFE_of_even (even_add_two (sp_even s)))

/-! ### POP -/

/-- The machine after a pop from ordinary memory, in the first cycle of an instruction. -/
def State.popped (s : State) : State :=
  { s.begin with
    w := (s.putW 15 (s.sp - 2)).w
    slot := { Slot.fresh with raised := ⟨false, false, s.stackFaulty (s.sp - 2), false⟩ } }

theorem pop16_begin {s : State} (h : s.RamAt (s.sp - 2)) : s.begin.pop16 = (s.ramWord (s.sp - 2), s.popped) := by
  have hraised : ∀ b : Bool, (if b then TrapSet.none.insert .stackError else TrapSet.none) = ⟨false, false, b, false⟩ := by
    rintro (_ | _) <;> rfl
  rw [pop16_ram (s := s.begin) h.begin]
  refine Prod.ext rfl ?_
  exact congrArg (fun r => { s.popped with slot := { Slot.fresh with raised := r } }) (hraised _)

theorem popped_sp (s : State) : s.popped.getW 15 = s.sp - 2 := by
  refine (getW_putW s 15 15 _).trans ?_
  rw [if_pos rfl, if_pos rfl]
  exact and_FFFE_of_even (even_sub_two (sp_even s))

theorem popped_otherW (s : State) {n : WReg} (hn : n ≠ 15) : s.popped.getW n = s.getW n :=
  (getW_putW s 15 n _).trans (if_neg hn)

theorem popped_dataChange (s : State) : s.DataChange s.popped := ⟨_, _, _, _, _, _, _, _, _, rfl⟩

theorem exec_pop {s t : State} {f : DataAddr} (h : s.RamAt (s.sp - 2))
    (hstore : s.popped.storeWord f (s.ramWord (s.sp - 2)) = .ok t) : exec (.pop f) s = .next (t.advance.took 1) :=
  completeStore_next.2 ⟨t, by rw [pop16_begin h]; exact hstore, rfl⟩

/-! ### A stack error more -/

/-- The machine with the stack error raised besides when `b`. -/
def State.orStk (s : State) (b : Bool) : State :=
  { s with slot := { s.slot with raised := { s.slot.raised with stk := s.slot.raised.stk || b } } }

theorem raiseIf_orStk (s : State) (c b : Bool) : (s.orStk b).raiseIf c .stackError = (s.raiseIf c .stackError).orStk b := by
  cases c <;> rfl

theorem raiseAll_orStk (s : State) (r : TrapSet) (b : Bool) : (s.orStk b).raiseAll r = (s.raiseAll r).orStk b := by
  simp only [State.raiseAll, State.orStk, TrapSet.union, Bool.or_right_comm]

/-- A software write of a register does the same whatever stack error was raised before it. -/
theorem storeSfr_orStk (s : State) (r : Sfr) (v : Word) (b : Bool) : (s.orStk b).storeSfr r v = (s.storeSfr r v).orStk b := by
  cases r with
  | w n => exact raiseIf_orStk (s.putW n v) _ b
  | intcon1 => exact raiseAll_orStk { s with
      intcon1 := (v &&& 0x8000) ||| (s.intcon1 &&& v &&& 0x001E) ||| s.trapFlagsSetBy v } (TrapSet.ofFlags (s.trapFlagsSetBy v)) b
  | _ => rfl

theorem putRamWord_orStk (s : State) (a : DataAddr) (v : Word) (b : Bool) :
    (s.orStk b).putRamWord a v = (s.putRamWord a v).orStk b := by
  simp only [State.putRamWord, State.orStk]
  split <;> rfl

theorem writeWord_orStk (s : State) (a : DataAddr) (v : Word) (b : Bool) :
    (s.orStk b).writeWord a v = (s.writeWord a v).orStk b := by
  cases he : a.getLsbD 0
  · by_cases hn : s.wrinh = true ∨ s.cfg.dataImplemented a = false
    · rw [writeWord_none v he hn, writeWord_none (s := s.orStk b) v he hn]
    · obtain ⟨hw, hi⟩ : s.wrinh = false ∧ s.cfg.dataImplemented a = true := by simpa using hn
      cases hs : s.cfg.sfrAt a with
      | none =>
        rw [writeWord_ram v ⟨he, hi, hs⟩ hw, writeWord_ram (s := s.orStk b) v ⟨he, hi, hs⟩ hw, putRamWord_orStk]
      | some r =>
        rw [writeWord_sfr v ⟨he, hi, hs⟩ hw, writeWord_sfr (s := s.orStk b) v ⟨he, hi, hs⟩ hw, State.swrite, storeSfr_orStk]
        rfl
  · rw [writeWord_odd (s := s) v he, writeWord_odd (s := s.orStk b) v he]
    rfl

theorem storeWord_orStk {s t : State} {a : DataAddr} {v : Word} (h : s.storeWord a v = .ok t) (b : Bool) :
    (s.orStk b).storeWord a v = .ok (t.orStk b) := by
  obtain ⟨haccept, rfl⟩ := storeWord_ok h
  rw [storeWord_accepted (s := s.orStk b) haccept, writeWord_orStk]

/-! ### POP into a place -/

/-- The pop onto the register file, then the store of the word popped, is MOV of that word once W15 is down by 2. -/
theorem exec_pop_of_movToFile {s m : State} {f : DataAddr} {n : WReg} (h : s.RamAt (s.sp - 2)) (hn : n ≠ 15)
    (hv : s.getW n = s.ramWord (s.sp - 2)) (hm : exec (.movToFile n f) { s with w := (s.putW 15 (s.sp - 2)).w } = .next m) :
    exec (.pop f) s = .next (m.orStk (s.stackFaulty (s.sp - 2))) := by
  obtain ⟨u, hu, rfl⟩ := completeStore_next.1 hm
  have hw : State.getW { s with w := (s.putW 15 (s.sp - 2)).w } n = s.ramWord (s.sp - 2) :=
    ((getW_putW s 15 n _).trans (if_neg hn)).trans hv
  rw [hw] at hu
  exact exec_pop h (storeWord_orStk hu (s.stackFaulty (s.sp - 2)))

/-- Settles O24: the pop, and the store of the word popped, place by place. -/
theorem popLoadsFromStack : Obligations.PopLoadsFromStack := by
  refine fun x s => ⟨decodeWords_of_encode (not_bit_zero x) (by rw [encode, slice_append_zero]), fun f v h hv => ?_⟩
  subst hv
  refine ⟨fun hf => ?_, fun m hf => ?_, fun he hi => ?_, fun n m hn hv hm => exec_pop_of_movToFile h hn hv hm⟩
  · have hstore : s.popped.storeWord f (s.ramWord (s.sp - 2)) = .ok (s.popped.putRamWord f (s.ramWord (s.sp - 2))) :=
      storeWord_ram _ (ramAt_congr (s := s) rfl hf) rfl
    have hw : ((s.popped.putRamWord f (s.ramWord (s.sp - 2))).advance.took 1).w = s.popped.w := putRamWord_w s.popped f _
    have hmem : ∀ c, ((s.popped.putRamWord f (s.ramWord (s.sp - 2))).advance.took 1).ramByte c =
        (s.popped.putRamWord f (s.ramWord (s.sp - 2))).ramByte c := ramByte_congr rfl rfl
    exact ⟨_, exec_pop h hstore, (ramWord_congr rfl rfl rfl f).trans (ramWord_putRamWord_same s.popped f _),
      fun c h0 h1 => (hmem c).trans (ramByte_putRamWord_other s.popped _ h0 h1), (getW_congr hw 15).trans (popped_sp s),
      fun n hn => (getW_congr hw n).trans (popped_otherW s hn), congrArg (· + 2) (putRamWord_pc s.popped f _), rfl,
      ⟨putRamWord_sr s.popped f _, putRamWord_corcon s.popped f _⟩,
      (((popped_dataChange s).trans (putRamWord_dataChange _ _ _)).trans (advance_took_dataChange _ _)).sameSystem,
      congrArg Slot.raised (putRamWord_slot s.popped f _)⟩
  · have hstore : s.popped.storeWord f (s.ramWord (s.sp - 2)) = .ok (s.popped.swrite (.w m) (s.ramWord (s.sp - 2))) :=
      storeWord_sfr (sfrIs_congr (s := s) rfl hf) rfl (.inl nofun)
    obtain ⟨hstatus, hsys, hbytes⟩ := (((popped_dataChange s).trans (swrite_w_dataChange s.popped m _)).trans
      (advance_took_dataChange _ 1)).frame (setW_sr s.popped m (s.ramWord (s.sp - 2)))
      (setW_corcon s.popped m (s.ramWord (s.sp - 2))) (setW_mem s.popped m (s.ramWord (s.sp - 2)))
    have hother : ∀ n, n ≠ m → (s.popped.setW m (s.ramWord (s.sp - 2))).getW n = s.popped.getW n := fun n hn =>
      (getW_setW s.popped m n _).trans (if_neg hn)
    exact ⟨_, exec_pop h hstore, getW_setW_same s.popped m _, fun hm => (hother 15 hm.symm).trans (popped_sp s),
      fun n hn h15 => (hother n hn).trans (popped_otherW s h15), hbytes,
      congrArg (· + 2) (setW_pc s.popped m (s.ramWord (s.sp - 2))), rfl, hstatus, hsys, setW_raised s.popped m _⟩
  · exact ⟨_, exec_pop h (storeWord_none _ he (.inr hi)), fun _ => rfl, popped_sp s, fun n hn => popped_otherW s hn, rfl, rfl,
      ⟨rfl, rfl⟩, ((popped_dataChange s).trans (advance_took_dataChange _ _)).sameSystem, rfl⟩

/-! ### A software write of SR -/

/-- The bits of SR that a software write leaves alone (R25, R26, R57): RA, the unimplemented bits, and IPL<2:0> while NSTDIS = 1. -/
theorem srWritable_bit (s : State) {b : Nat} (hb : b < 16) : s.srWritable.getLsbD b =
    !decide (b = 4 ∨ 8 < b ∨ (5 ≤ b ∧ b ≤ 7 ∧ s.nstdis = true)) := by
  rw [State.srWritable]
  cases s.nstdis <;> interval_cases b <;> rfl

theorem storeSr_bit (s : State) (v : Word) {b : Nat} (hb : b < 16) : (s.storeSfr .sr v).sr.getLsbD b =
    if b = 4 ∨ 8 < b ∨ (5 ≤ b ∧ b ≤ 7 ∧ s.nstdis = true) then s.sr.getLsbD b else v.getLsbD b := by
  rw [State.storeSfr, getLsbD_blend, srWritable_bit s hb]
  by_cases h : b = 4 ∨ 8 < b ∨ (5 ≤ b ∧ b ≤ 7 ∧ s.nstdis = true) <;> simp [h]

/-- Settles O25: the pop, and the software write of SR. -/
theorem popSrIsSoftwareWrite : Obligations.PopSrIsSoftwareWrite := by
  intro f s h hf
  have hstore : s.popped.storeWord f (s.ramWord (s.sp - 2)) = .ok (s.popped.swrite .sr (s.ramWord (s.sp - 2))) :=
    storeWord_sfr (sfrIs_congr (s := s) rfl hf) rfl (.inl nofun)
  exact ⟨_, exec_pop h hstore, popped_sp s, fun n hn => popped_otherW s hn, fun _ => rfl, rfl,
    State.DataChange.sameSystem ⟨_, _, _, _, _, _, _, _, _, rfl⟩, rfl, rfl, rfl, fun b hb => storeSr_bit s.popped _ hb⟩

end Sys2Proof.Machine
end

section
/-!
PROOFS. Software writes of the special function registers by MOV (R57): which bits change, and what they raise.
-/

namespace Sys2Proof.Machine

/-! ### SR and CORCON -/

theorem storeCorcon_bit (s : State) (v : Word) {b : Nat} (hb : b < 16) : (s.storeSfr .corcon v).corcon.getLsbD b =
    if b = 3 then s.corcon.getLsbD b && v.getLsbD b else if b = 2 then v.getLsbD b else s.corcon.getLsbD b := by
  rw [State.storeSfr, BitVec.getLsbD_and, BitVec.getLsbD_or, getLsbD_blend]
  interval_cases b <;> simp

/-- Settles O28. -/
theorem movToStatusRegisterObeysAccessRules : Obligations.MovToStatusRegisterObeysAccessRules := by
  refine fun n f s => ⟨fun h => ?_, fun h => ?_⟩
  · exact ⟨_, exec_movToFile_sfr n h (.inl nofun), rfl, State.DataChange.sameSystem ⟨_, _, _, _, _, _, _, _, _, rfl⟩,
      sameW_of_w rfl, sameBytes_of_mem rfl rfl, rfl, rfl, fun b hb => storeSr_bit s.begin _ hb⟩
  · exact ⟨_, exec_movToFile_sfr n h (.inl nofun), rfl, State.DataChange.sameSystem ⟨_, _, _, _, _, _, _, _, _, rfl⟩,
      sameW_of_w rfl, sameBytes_of_mem rfl rfl, rfl, rfl, fun b hb => storeCorcon_bit s.begin _ hb⟩

/-! ### INTCON1 -/

/-- The four trap flags are bits 1 to 4 of INTCON1 (R31). -/
theorem trapFlagMask_bit (b : Nat) : (0x001E : Word).getLsbD b = decide (1 ≤ b ∧ b ≤ 4) := by
  by_cases hb : b < 16
  · interval_cases b <;> rfl
  · rw [BitVec.getLsbD_of_ge _ _ (by omega), decide_eq_false (by omega)]

theorem trapFlagsSetBy_bit (s : State) (v : Word) (b : Nat) : (s.trapFlagsSetBy v).getLsbD b =
    (decide (1 ≤ b ∧ b ≤ 4) && (v.getLsbD b && !s.intcon1.getLsbD b && s.cfg.swTrapflagSetTraps)) := by
  rw [State.trapFlagsSetBy]
  cases s.cfg.swTrapflagSetTraps
  · simp
  · rw [if_pos rfl, BitVec.getLsbD_and, BitVec.getLsbD_and, BitVec.getLsbD_not, trapFlagMask_bit]
    by_cases hb : 1 ≤ b ∧ b ≤ 4
    · have : b < 16 := by omega
      simp [hb, this]
    · simp [hb]

theorem writeIntcon1_bit (s : State) (v : Word) {b : Nat} (hb : b < 16) : (s.writeIntcon1 v).intcon1.getLsbD b =
    if b = 15 then v.getLsbD b
    else decide (1 ≤ b ∧ b ≤ 4) && (v.getLsbD b && (s.intcon1.getLsbD b || s.cfg.swTrapflagSetTraps)) := by
  have hnstdis : (0x8000 : Word).getLsbD b = decide (b = 15) := by interval_cases b <;> rfl
  rw [writeIntcon1_intcon1, BitVec.getLsbD_or, BitVec.getLsbD_or, BitVec.getLsbD_and, BitVec.getLsbD_and, BitVec.getLsbD_and,
    trapFlagsSetBy_bit, hnstdis, trapFlagMask_bit]
  by_cases h15 : b = 15
  · subst h15; simp
  · by_cases hflag : 1 ≤ b ∧ b ≤ 4
    · cases v.getLsbD b <;> cases s.intcon1.getLsbD b <;> simp [h15, hflag]
    · simp [h15, hflag]

theorem writeIntcon1_trapFlag (s : State) (v : Word) (x : Trap) : (s.writeIntcon1 v).trapFlag x =
    (v.getLsbD x.flagBit && (s.trapFlag x || s.cfg.swTrapflagSetTraps)) := by
  obtain ⟨h1, h4⟩ := flagBit_lt x
  rw [State.trapFlag, writeIntcon1_bit s v (by omega), if_neg (by omega), decide_eq_true ⟨h1, h4⟩, Bool.true_and]
  rfl

theorem ofFlags_has (w : Word) (x : Trap) : (TrapSet.ofFlags w).has x = w.getLsbD x.flagBit := by
  cases x <;> rfl

theorem union_has (r q : TrapSet) (x : Trap) : (r.union q).has x = (r.has x || q.has x) := by
  cases x <;> rfl

/-- A write of INTCON1 raises a trap whose flag it sets (R199). -/
theorem writeIntcon1_has (s : State) (v : Word) (x : Trap) : (s.writeIntcon1 v).slot.raised.has x =
    (s.slot.raised.has x || (v.getLsbD x.flagBit && !s.trapFlag x && s.cfg.swTrapflagSetTraps)) := by
  obtain ⟨h1, h4⟩ := flagBit_lt x
  rw [writeIntcon1_slot, union_has, ofFlags_has, trapFlagsSetBy_bit, decide_eq_true ⟨h1, h4⟩, Bool.true_and]
  rfl

/-- Settles O29: INTCON1 bit by bit. -/
theorem movToIntcon1ObeysAccessRules : Obligations.MovToIntcon1ObeysAccessRules := by
  intro n f s h
  refine ⟨_, exec_movToFile_sfr n h (.inl nofun), rfl, sameW_of_w rfl, sameBytes_of_mem rfl rfl, ⟨rfl, rfl⟩, ⟨rfl, rfl, rfl⟩,
    ⟨rfl, rfl, rfl, rfl, rfl, rfl, rfl, rfl, rfl, rfl, rfl⟩, ⟨rfl, rfl, rfl, rfl⟩, rfl, rfl, rfl, ?_, fun x => ?_, fun x => ?_,
    fun b hb => ?_⟩
  · exact (writeIntcon1_bit s.begin _ (by decide)).trans (if_pos rfl)
  · exact writeIntcon1_trapFlag s.begin _ x
  · refine (writeIntcon1_has s.begin _ x).trans ?_
    cases x <;> rfl
  · refine (writeIntcon1_bit s.begin _ (by omega)).trans ?_
    rw [if_neg (by omega), decide_eq_false (by omega)]
    rfl

/-! ### INTCON2 -/

theorem storeIntcon2_bit (s : State) (v : Word) {b : Nat} (hb : b < 16) : (s.storeSfr .intcon2 v).intcon2.getLsbD b =
    if b = 15 ∨ b < s.cfg.nExtInt.val then v.getLsbD b else s.intcon2.getLsbD b := by
  have haltivt : (0x8000#16).getLsbD b = decide (b = 15) := by interval_cases b <;> rfl
  change (blend (0x8000#16 ||| s.cfg.epMask) s.intcon2 v).getLsbD b = _
  rw [getLsbD_blend, BitVec.getLsbD_or, epMask_lt, haltivt, ← Bool.decide_or]
  simp only [decide_eq_true_eq]

/-- Settles O30. -/
theorem movToIntcon2ObeysAccessRules : Obligations.MovToIntcon2ObeysAccessRules := by
  intro n f s h
  refine ⟨_, exec_movToFile_sfr n h (.inl nofun), rfl, sameW_of_w rfl, sameBytes_of_mem rfl rfl, ⟨rfl, rfl⟩, ⟨rfl, rfl, rfl⟩,
    ⟨rfl, rfl, rfl, rfl, rfl, rfl, rfl, rfl, rfl, rfl, rfl⟩, ⟨rfl, rfl, rfl, rfl⟩, rfl, rfl, rfl,
    fun b hb => storeIntcon2_bit s.begin _ hb⟩

/-! ### DISICNT -/

/-- A write of 0 ends a DISI, and no write begins one (R125). -/
theorem writeDisicnt_disiBit (s : State) (v : BitVec 14) : (s.writeDisicnt v).disiBit = (s.disiBit && v != 0#14) := by
  rw [State.disiBit, writeDisicnt_intcon2]
  have hiff : (s.disiBit && v == 0) = true ↔ s.disiBit = true ∧ v = 0#14 := by simp
  by_cases h : s.disiBit = true ∧ v = 0#14
  · rw [if_pos (hiff.2 h), getLsbD_setBit, if_pos ⟨rfl, by decide⟩, h.2]
    simp
  · rw [if_neg (mt hiff.1 h), ← State.disiBit]
    cases hd : s.disiBit
    · rfl
    · simpa [hd] using h

theorem writeDisicnt_intcon2_bit (s : State) (v : BitVec 14) {b : Nat} (hb : b ≠ 14) :
    (s.writeDisicnt v).intcon2.getLsbD b = s.intcon2.getLsbD b := by
  rw [writeDisicnt_intcon2]
  split
  · exact (getLsbD_setBit _ _ _ _).trans (if_neg fun h => hb h.1)
  · rfl

/-- Settles O31. -/
theorem movToDisicntExtendsOrEndsDisi : Obligations.MovToDisicntExtendsOrEndsDisi := by
  intro n f s h
  refine ⟨_, exec_movToFile_sfr n h (.inl nofun), rfl, sameW_of_w rfl, sameBytes_of_mem rfl rfl, ⟨rfl, rfl⟩, ⟨rfl, rfl, rfl⟩,
    ⟨rfl, rfl, rfl, rfl, rfl, rfl, rfl, rfl, rfl, rfl, rfl⟩, ⟨rfl, rfl, rfl, rfl⟩, rfl, rfl, rfl,
    writeDisicnt_disiBit s.begin _, fun b hb => writeDisicnt_intcon2_bit s.begin _ hb⟩

/-! ### IFSn, IECn and IPCn -/

theorem flagMask_getLsbD (d : Device) (k : Fin 8) {i : Nat} (hi : i < 16) :
    (d.flagMask k).getLsbD i = d.implVec.getLsbD (16 * k.val + i) := by
  rw [Device.flagMask, BitVec.getLsbD_extractLsb', decide_eq_true hi, Bool.true_and]

/-- A flag or enable bit after a software write of the `k`-th register of its kind. -/
theorem flagField_set (d : Device) (xs : Vector Word 8) (k : Fin 8) (x : Word) (v : Vec) :
    ((xs.set k (blend (d.flagMask k) xs[k] x))[v.val / 16]'(by omega)).getLsbD (v.val % 16) =
      if v.val / 16 = k.val ∧ d.implVec.getLsbD v.val = true then x.getLsbD (v.val % 16)
      else (xs[v.val / 16]'(by omega)).getLsbD (v.val % 16) := by
  by_cases hk : v.val / 16 = k.val
  · have hv : 16 * k.val + v.val % 16 = v.val := by omega
    simp only [hk, Fin.getElem_fin, Vector.getElem_set_self, getLsbD_blend, true_and]
    rw [flagMask_getLsbD d k (Nat.mod_lt _ (by decide)), hv]
  · rw [if_neg fun h => hk h.1, Vector.getElem_set_ne _ _ (Ne.symm hk)]

theorem priorityField_set (d : Device) (xs : Vector Word 30) (k : Fin 30) (x : Word) (v : Vec) :
    ((xs.set k (blend (d.ipcMask k) xs[k] x))[v.val / 4]'(by omega)).extractLsb' (4 * (v.val % 4)) 3 =
      if v.val / 4 = k.val ∧ d.implVec.getLsbD v.val = true then x.extractLsb' (4 * (v.val % 4)) 3
      else (xs[v.val / 4]'(by omega)).extractLsb' (4 * (v.val % 4)) 3 := by
  by_cases hk : v.val / 4 = k.val
  · refine BitVec.eq_of_getLsbD_eq fun i hi => ?_
    have hmask := ipcMask_getLsbD_vec d v hi
    have hk' : (⟨v.val / 4, by omega⟩ : Fin 30) = k := Fin.ext hk
    rw [hk'] at hmask
    simp only [hk, Fin.getElem_fin, Vector.getElem_set_self, BitVec.getLsbD_extractLsb', getLsbD_blend, hmask, true_and]
    split <;> simp only [BitVec.getLsbD_extractLsb']
  · rw [if_neg fun h => hk h.1, Vector.getElem_set_ne _ _ (Ne.symm hk)]

theorem storeIfs_ifBit (s : State) (k : Fin 8) (x : Word) (v : Vec) : (s.storeSfr (.ifs k) x).ifBit v =
    if v.val / 16 = k.val ∧ s.implemented v = true then x.getLsbD (v.val % 16) else s.ifBit v :=
  flagField_set s.cfg s.ifs k x v

theorem storeIec_ieBit (s : State) (k : Fin 8) (x : Word) (v : Vec) : (s.storeSfr (.iec k) x).ieBit v =
    if v.val / 16 = k.val ∧ s.implemented v = true then x.getLsbD (v.val % 16) else s.ieBit v :=
  flagField_set s.cfg s.iec k x v

theorem storeIpc_ipField (s : State) (k : Fin 30) (x : Word) (v : Vec) : (s.storeSfr (.ipc k) x).ipField v =
    if v.val / 4 = k.val ∧ s.implemented v = true then x.extractLsb' (4 * (v.val % 4)) 3 else s.ipField v :=
  priorityField_set s.cfg s.ipc k x v

theorem exec_movToFile_stored {s u : State} {f : DataAddr} {r : Sfr} (n : WReg) (h : s.SfrIs f r)
    (hr : r ≠ .rcon ∨ (s.getW n).getLsbD 15 = false) (hu : s.begin.storeSfr r (s.getW n) = u) :
    exec (.movToFile n f) s = .next ((u.noteWrite r (~~~s.getW n)).advance.took 1) :=
  hu ▸ exec_movToFile_sfr n h hr

/-- Settles O33: the field of a vector after the write of a register. -/
theorem movToSourceRegisterStoresFields : Obligations.MovToSourceRegisterStoresFields := by
  refine fun n f s => ⟨fun k h => ?_, fun k h => ?_, fun k h => ?_⟩
  · obtain ⟨x, hx⟩ : ∃ x, s.begin.storeSfr (.ifs k) (s.getW n) = { s.begin with ifs := x } := ⟨_, rfl⟩
    have hfield := storeIfs_ifBit s.begin k (s.getW n)
    rw [hx] at hfield
    exact ⟨_, exec_movToFile_stored n h (.inl nofun) hx, rfl, rfl, sameW_of_w rfl, rfl, rfl, rfl, rfl, sameBytes_of_mem rfl rfl,
      ⟨rfl, rfl⟩, ⟨rfl, rfl, rfl⟩, ⟨rfl, rfl, rfl, rfl, rfl, rfl, rfl, rfl, rfl, rfl, rfl⟩, ⟨rfl, rfl, rfl, rfl⟩, hfield⟩
  · obtain ⟨x, hx⟩ : ∃ x, s.begin.storeSfr (.iec k) (s.getW n) = { s.begin with iec := x } := ⟨_, rfl⟩
    have hfield := storeIec_ieBit s.begin k (s.getW n)
    rw [hx] at hfield
    exact ⟨_, exec_movToFile_stored n h (.inl nofun) hx, rfl, rfl, sameW_of_w rfl, rfl, rfl, rfl, rfl, sameBytes_of_mem rfl rfl,
      ⟨rfl, rfl⟩, ⟨rfl, rfl, rfl⟩, ⟨rfl, rfl, rfl, rfl, rfl, rfl, rfl, rfl, rfl, rfl, rfl⟩, ⟨rfl, rfl, rfl, rfl⟩, hfield⟩
  · obtain ⟨x, hx⟩ : ∃ x, s.begin.storeSfr (.ipc k) (s.getW n) = { s.begin with ipc := x } := ⟨_, rfl⟩
    have hfield := storeIpc_ipField s.begin k (s.getW n)
    rw [hx] at hfield
    exact ⟨_, exec_movToFile_stored n h (.inl nofun) hx, rfl, rfl, sameW_of_w rfl, rfl, rfl, rfl, rfl, sameBytes_of_mem rfl rfl,
      ⟨rfl, rfl⟩, ⟨rfl, rfl, rfl⟩, ⟨rfl, rfl, rfl, rfl, rfl, rfl, rfl, rfl, rfl, rfl, rfl⟩, ⟨rfl, rfl, rfl, rfl⟩, hfield⟩

/-! ### A bit instruction on a register -/

/-- A bit instruction on a byte of a register other than RCON is a byte write of what was read, with the bit changed. -/
theorem modifyByte_eq_swriteByte {s : State} {a : DataAddr} {r : Sfr} (f : Byte → Byte) (hi : s.cfg.dataImplemented a = true)
    (hs : s.cfg.sfrAt a = some r) (hw : s.wrinh = false) (h2 : r ≠ .rcon) : s.modifyByte a f =
      (s.readSfr r).2.swriteByte r (s.cfg.upperLane a) (f (laneByte (s.cfg.upperLane a) (s.readSfr r).1)) := by
  have hread : s.readByte a = (laneByte (s.cfg.upperLane a) (s.readSfr r).1, (s.readSfr r).2) := by
    rw [State.readByte, hi, hs]; rfl
  have hrcon : (s.cfg.dataImplemented a && s.cfg.sfrAt a == some .rcon) = false := by simp [hs, h2]
  rw [State.modifyByte, hrcon, hread, if_neg Bool.false_ne_true, State.writeByte]
  simp only [readSfr_snd_cfg, readSfr_snd_wrinh, hw, hi, hs, Bool.not_true, Bool.or_false, Bool.false_eq_true, if_false]

/-- On a register that is neither SPLIM nor RCON, nor the high byte of OSCCON, that byte write is not refused. -/
theorem modifyByte_sfr {s : State} {a : DataAddr} {r : Sfr} (f : Byte → Byte) (hi : s.cfg.dataImplemented a = true)
    (hs : s.cfg.sfrAt a = some r) (hw : s.wrinh = false) (h1 : r ≠ .splim) (h2 : r ≠ .rcon)
    (h3 : r = .osccon → s.cfg.upperLane a = false) : s.modifyByte a f =
      .ok (((s.readSfr r).2.storeSfr r (withLane (s.cfg.upperLane a) ((s.readSfr r).2.sfrValue r)
          (f (laneByte (s.cfg.upperLane a) (s.readSfr r).1)))).noteWrite r
        (laneMask (s.cfg.upperLane a) &&& ~~~withLane (s.cfg.upperLane a) ((s.readSfr r).2.sfrValue r)
          (f (laneByte (s.cfg.upperLane a) (s.readSfr r).1)))) := by
  rw [modifyByte_eq_swriteByte f hi hs hw h2, State.swriteByte, if_neg h1, if_neg (fun h => h2 h.1), if_neg (fun h => ?_)]
  rw [h3 h.1] at h
  exact Bool.false_ne_true h.2

theorem namesTrapr_false {s : State} {a : DataAddr} (h : s.cfg.sfrAt a ≠ some .rcon) (bit4 : BitVec 4) :
    s.namesTrapr a bit4 = false := by
  simp [State.namesTrapr, h]

theorem slice_eq_seven_iff (bit4 : BitVec 4) : bit4.extractLsb' 0 3 = 7#3 ↔ bit4.toNat % 8 = 7 := by
  rw [← BitVec.toNat_inj, toNat_slice]
  simp

/-- The mask of a bit instruction has the bit named alone (R155). -/
theorem bitMask_getLsbD (bit4 : BitVec 4) (i : Nat) : (bitMask bit4).getLsbD i = decide (i = bit4.toNat % 8) := by
  have hlow : ∀ b : BitVec 4, ∀ i < 8, (bitMask b).getLsbD i = decide (i = b.toNat % 8) := by decide
  by_cases hi : i < 8
  · exact hlow bit4 i hi
  · rw [BitVec.getLsbD_of_ge _ _ (Nat.not_lt.1 hi), decide_eq_false (by omega)]

/-- A bit instruction on the low byte of OSCCON can change CF alone (R47, R243). -/
theorem modifyByte_osccon {s : State} {a : DataAddr} (f : Byte → Byte) (hi : s.cfg.dataImplemented a = true)
    (hs : s.cfg.sfrAt a = some .osccon) (hw : s.wrinh = false) (hu : s.cfg.upperLane a = false) : ∃ c z,
    c = (s.cf && (f (loByte (s.readSfr .osccon).1)).getLsbD 3) ∧
      s.modifyByte a f = .ok ({ s.drawWord.2 with cf := c }.noteWrite .osccon z) := by
  have h := modifyByte_sfr f hi hs hw nofun nofun fun _ => hu
  have hbit : ∀ x b, (withLane false x b).getLsbD 3 = b.getLsbD 3 := fun x b => getLsbD_withLane false x b 3
  rw [hu] at h
  simp only [State.storeSfr, hbit] at h
  exact ⟨_, _, rfl, h⟩

/-! ### SPLIM, RCON and OSCCON -/

theorem loByte_osccon_bit (s : State) : (loByte (s.readSfr .osccon).1).getLsbD 3 = s.cf := by
  rw [getLsbD_loByte, osccon_read_bit]
  rfl

theorem storeWord_rcon_refused {s : State} {a : DataAddr} {v : Word} (h : s.SfrIs a .rcon) (hw : s.wrinh = false)
    (hv : v.getLsbD 15 = true) : s.storeWord a v = .error .rconOtherUse :=
  if_pos (by rw [State.writesRcon, h.even, hw, h.implemented, h.here, hv]; rfl)

theorem cf_after_bclr (s : State) (bit4 : BitVec 4) :
    (s.cf && (loByte (s.readSfr .osccon).1 &&& ~~~bitMask bit4).getLsbD 3) = (s.cf && decide (bit4.toNat % 8 ≠ 3)) := by
  rw [BitVec.getLsbD_and, loByte_osccon_bit, BitVec.getLsbD_not, bitMask_getLsbD, ← Bool.and_assoc, Bool.and_self]
  simp [eq_comm]

theorem cf_after_bset (s : State) (bit4 : BitVec 4) :
    (s.cf && (loByte (s.readSfr .osccon).1 ||| bitMask bit4).getLsbD 3) = s.cf := by
  rw [BitVec.getLsbD_or, loByte_osccon_bit]
  cases s.cf <;> rfl

/-- A store of CF changes nothing else. -/
theorem oscconStored_frame (s : State) (c : Bool) (z : Word) {x : State}
    (hx : x = ({ s.begin.drawWord.2 with cf := c }.noteWrite .osccon z).advance.took 1) :
    x.trapr = s.trapr ∧ x.splim = s.splim ∧ x.splimEn = s.splimEn ∧ x.slot.raised = .none ∧ x.pc = s.pc + 2 ∧ SameW s x ∧
      SameBytes s x ∧ SameStatus s x ∧ SameControl s x ∧ SameSources s x ∧ SameOutside s x := by
  subst hx
  exact ⟨rfl, rfl, rfl, rfl, rfl, sameW_of_w rfl, sameBytes_of_mem rfl rfl, ⟨rfl, rfl⟩, ⟨rfl, rfl, rfl⟩, ⟨rfl, rfl, rfl⟩,
    ⟨rfl, rfl, rfl, rfl⟩⟩

/-- Settles O32. -/
theorem movToSplimRconOsccon : Obligations.MovToSplimRconOsccon := by
  refine fun n f s => ⟨fun h => ?_, fun h hb => ?_, fun h hb => ?_, fun g bit4 a ha hi hs hu hbit => ?_, fun h => ?_,
    fun g bit4 a ha hi hs hu => ?_⟩
  · exact ⟨_, exec_movToFile_sfr n h (.inl nofun), rfl, rfl, rfl, rfl, rfl, rfl, sameW_of_w rfl, sameBytes_of_mem rfl rfl,
      ⟨rfl, rfl⟩,
      ⟨rfl, rfl, rfl⟩, ⟨rfl, rfl, rfl⟩, ⟨rfl, rfl, rfl, rfl⟩⟩
  · exact congrArg completeStore (storeWord_rcon_refused h.begin rfl hb)
  · refine ⟨_, exec_movToFile_sfr n h (.inr hb), ?_, rfl, rfl, rfl, rfl, rfl, sameW_of_w rfl, sameBytes_of_mem rfl rfl,
      ⟨rfl, rfl⟩,
      ⟨rfl, rfl, rfl⟩, ⟨rfl, rfl, rfl⟩, ⟨rfl, rfl, rfl, rfl⟩⟩
    exact (congrArg (s.trapr && ·) hb).trans (Bool.and_false _)
  · subst ha
    have hnames : s.namesTrapr (bitByteAddr g bit4) bit4 = true := by
      rw [State.namesTrapr, hi, hs, hu, (slice_eq_seven_iff bit4).2 hbit]; rfl
    refine ⟨_, (exec_bclr g bit4 s).trans (congrArg completeStore (if_pos hnames)), ?_, rfl, rfl, rfl, rfl, rfl, sameW_of_w rfl,
      sameBytes_of_mem rfl rfl, ⟨rfl, rfl⟩, ⟨rfl, rfl, rfl⟩, ⟨rfl, rfl, rfl⟩, ⟨rfl, rfl, rfl, rfl⟩⟩
    exact Bool.and_false _
  · exact ⟨_, exec_movToFile_sfr n h (.inl nofun), rfl, rfl, rfl, rfl, rfl, rfl, rfl, sameW_of_w rfl, sameBytes_of_mem rfl rfl,
      ⟨rfl, rfl⟩, ⟨rfl, rfl, rfl⟩, ⟨rfl, rfl, rfl⟩, ⟨rfl, rfl, rfl, rfl⟩⟩
  · subst ha
    obtain ⟨c, z, hc, hclr⟩ := modifyByte_osccon (s := s.begin) (fun b => b &&& ~~~bitMask bit4) hi hs rfl hu
    obtain ⟨c', z', hc', hset⟩ := modifyByte_osccon (s := s.begin) (fun b => b ||| bitMask bit4) hi hs rfl hu
    have hbclr := (exec_bclr g bit4 s).trans (congrArg completeStore ((if_neg (Bool.eq_false_iff.1
      (namesTrapr_false (by rw [hs]; nofun) bit4))).trans hclr))
    refine ⟨_, _, hbclr, congrArg completeStore hset, hc.trans (cf_after_bclr _ _), hc'.trans (cf_after_bset _ _), ?_⟩
    rintro x (rfl | rfl)
    · exact oscconStored_frame s c z rfl
    · exact oscconStored_frame s c' z' rfl

end Sys2Proof.Machine
end

section
/-!
PROOFS. BSET and BCLR on memory and on the registers (R155, R156).
-/

namespace Sys2Proof.Machine

/-! ### The meaning of a bit instruction -/

section BitInstruction

variable {s u : State} {f : BitVec 13} {bit4 : BitVec 4}

theorem exec_bset_of (h : s.begin.modifyByte (bitByteAddr f bit4) (fun b => b ||| bitMask bit4) = .ok u) :
    exec (.bset f bit4) s = .next (u.advance.took 1) :=
  congrArg completeStore h

theorem exec_bclr_of (hn : s.namesTrapr (bitByteAddr f bit4) bit4 = false)
    (h : s.begin.modifyByte (bitByteAddr f bit4) (fun b => b &&& ~~~bitMask bit4) = .ok u) :
    exec (.bclr f bit4) s = .next (u.advance.took 1) :=
  (exec_bclr f bit4 s).trans (congrArg completeStore ((if_neg (Bool.eq_false_iff.1 hn)).trans h))

end BitInstruction

theorem modifyByte_bad {s : State} {a : DataAddr} (f : Byte → Byte) (h : s.cfg.dataImplemented a = false) :
    s.modifyByte a f = .ok (s.raise .addressError).drawWord.2 := by
  simp [State.modifyByte, State.readByte, State.writeByte, h]

theorem modifyByte_ram {s : State} {a : DataAddr} (f : Byte → Byte) (hi : s.cfg.dataImplemented a = true)
    (hs : s.cfg.sfrAt a = none) (hw : s.wrinh = false) :
    s.modifyByte a f = .ok (s.putRamByte a (f (s.ramByte a))) := by
  simp [State.modifyByte, State.readByte, State.writeByte, hi, hs, hw]

theorem bitMask_eq (bit4 : BitVec 4) : bitMask bit4 = 1#8 <<< (bit4.toNat % 8) := by
  rw [bitMask, toNat_slice, Nat.pow_zero, Nat.div_one]
  rfl

/-- The machine after a bit instruction on a byte of ordinary memory. -/
theorem putRamByte_frame (s : State) (a : DataAddr) (b : Byte) : ∃ t, t = (s.begin.putRamByte a b).advance.took 1 ∧
    t.ramByte a = b ∧ (∀ c, c ≠ a → t.ramByte c = s.ramByte c) ∧ SameW s t ∧ t.pc = s.pc + 2 ∧ t.slot.cycles = 1 ∧
      t.slot.raised = .none ∧ SameStatus s t ∧ SameSystem s t :=
  ⟨_, rfl, (ramByte_congr rfl rfl a).trans (ramByte_putRamByte_same s.begin a b),
    fun c hc => (ramByte_congr rfl rfl c).trans (ramByte_putRamByte_other s.begin b hc.symm), sameW_of_w rfl, rfl, rfl, rfl,
    ⟨rfl, rfl⟩, State.DataChange.sameSystem ⟨_, _, _, _, _, _, _, _, _, rfl⟩⟩

theorem bit_slices (B : BitVec 1) (b : BitVec 3) : (B ++ b).extractLsb' 0 3 = b ∧ (B ++ b).extractLsb' 3 1 = B := by
  revert B b
  decide

/-- Settles O35: the byte of memory, or the address error of its read. -/
theorem bitInstructionsChangeOneBit : Obligations.BitInstructionsChangeOneBit := by
  intro b f B s
  obtain ⟨hb, hB⟩ := bit_slices B b
  refine ⟨decodeWords_of_encode (not_bit_zero f) (by rw [encode, slice_append_zero, hb, hB]),
    decodeWords_of_encode (not_bit_zero f) (by rw [encode, slice_append_zero, hb, hB]), ?_⟩
  rintro g bit4 a rfl
  refine ⟨fun hi i h => ?_, fun hi hs => ⟨?_, ?_⟩⟩
  · have hexec : exec i s = .next ((s.begin.raise .addressError).drawWord.2.advance.took 1) := by
      obtain rfl | rfl := h
      · exact exec_bset_of (modifyByte_bad (s := s.begin) _ hi)
      · exact exec_bclr_of (by rw [State.namesTrapr, hi]; rfl) (modifyByte_bad (s := s.begin) _ hi)
    obtain ⟨hstatus, hsys, hbytes, hw⟩ := ((State.Accessed.raise (fun _ => False) s.begin .addressError).trans
      (.drawWord _ _)).ended (advance_took_ended _ 1)
    exact ⟨_, hexec, rfl, hbytes, fun n => hw n id, rfl, rfl, hstatus, hsys⟩
  · obtain ⟨t, rfl, hbyte, hframe⟩ := putRamByte_frame s (bitByteAddr g bit4) (s.ramByte (bitByteAddr g bit4) ||| bitMask bit4)
    exact ⟨_, exec_bset_of (modifyByte_ram (s := s.begin) _ hi hs rfl), bitMask_eq bit4 ▸ hbyte, hframe⟩
  · obtain ⟨t, rfl, hbyte, hframe⟩ := putRamByte_frame s (bitByteAddr g bit4) (s.ramByte (bitByteAddr g bit4) &&& ~~~bitMask bit4)
    exact ⟨_, exec_bclr_of (namesTrapr_false (by rw [hs]; nofun) bit4) (modifyByte_ram (s := s.begin) _ hi hs rfl),
      bitMask_eq bit4 ▸ hbyte, hframe⟩

/-! ### The byte of a register -/

section LittleEndian

variable {d : Device} {f : BitVec 13} (bit4 : BitVec 4)

theorem bitByteAddr_toNat : (bitByteAddr f bit4).toNat = f.toNat + bit4.toNat / 8 := by
  have hf := f.isLt
  have hb := bit4.isLt
  rw [bitByteAddr, BitVec.toNat_add, BitVec.toNat_setWidth, BitVec.toNat_setWidth, toNat_slice]
  omega

/-- The byte of a bit lies in the word of the operand (R155). -/
theorem sfrAt_bitByteAddr (h : (f.setWidth 16).getLsbD 0 = false) : d.sfrAt (bitByteAddr f bit4) = d.sfrAt (f.setWidth 16) := by
  have heven : evenAddr (bitByteAddr f bit4) = evenAddr (f.setWidth 16) := by
    apply BitVec.eq_of_toNat_eq
    have hf := f.isLt
    have hb := bit4.isLt
    rw [bit_zero_eq_false_iff, BitVec.toNat_setWidth] at h
    change (_ &&& 0xFFFE#16).toNat = (_ &&& 0xFFFE#16).toNat
    rw [and_FFFE_toNat, and_FFFE_toNat, bitByteAddr_toNat, BitVec.toNat_setWidth]
    omega
  rw [Device.sfrAt, Device.sfrAt, heven]

theorem upperLane_bitByteAddr (hd : d.byteOrder = .little) (h : (f.setWidth 16).getLsbD 0 = false) :
    d.upperLane (bitByteAddr f bit4) = decide (8 ≤ bit4.toNat) := by
  have hf := f.isLt
  have hb := bit4.isLt
  rw [bit_zero_eq_false_iff, BitVec.toNat_setWidth] at h
  rw [Device.upperLane, hd]
  change (bitByteAddr f bit4).getLsbD 0 = _
  rw [BitVec.getLsbD, Nat.testBit_zero, bitByteAddr_toNat, decide_eq_decide]
  omega

end LittleEndian

/-- The byte of a word with one bit changed, put back, is the word with that bit changed. -/
theorem withLane_bit {g : Byte → Byte} {bit4 : BitVec 4} {v : Bool}
    (hg : ∀ b i, i < 8 → (g b).getLsbD i = if i = bit4.toNat % 8 then v else b.getLsbD i) (x : Word) :
    withLane (decide (8 ≤ bit4.toNat)) x (g (laneByte (decide (8 ≤ bit4.toNat)) x)) = setBit x bit4.toNat v := by
  have hb := bit4.isLt
  apply BitVec.eq_of_getLsbD_eq
  intro i hi
  rw [getLsbD_withLane, getLsbD_setBit]
  by_cases hu : 8 ≤ bit4.toNat <;> by_cases h8 : i < 8
  · have hother : ¬ (i = bit4.toNat ∧ i < 16) := by omega
    rw [decide_eq_true hu, if_pos h8, if_pos rfl, if_neg hother]
  · have hplace : i - 8 = bit4.toNat % 8 ↔ i = bit4.toNat ∧ i < 16 := by omega
    have hlane : (laneByte true x).getLsbD (i - 8) = x.getLsbD i := by
      rw [show laneByte true x = hiByte x from rfl, getLsbD_hiByte, decide_eq_true (by omega), Bool.true_and]
      congr 1
      omega
    rw [decide_eq_true hu, if_neg h8, if_pos rfl, hg _ _ (by omega), hlane]
    simp only [hplace]
  · have hplace : i = bit4.toNat % 8 ↔ i = bit4.toNat ∧ i < 16 := by omega
    have hlane : (laneByte false x).getLsbD i = x.getLsbD i := by
      rw [show laneByte false x = loByte x from rfl, getLsbD_loByte, decide_eq_true h8, Bool.true_and]
    rw [decide_eq_false hu, if_pos h8, if_neg Bool.false_ne_true, hg _ _ h8, hlane]
    simp only [hplace]
  · have hother : ¬ (i = bit4.toNat ∧ i < 16) := by omega
    rw [decide_eq_false hu, if_neg h8, if_neg Bool.false_ne_true, if_neg hother]

theorem bclr_bit (bit4 : BitVec 4) (b : Byte) (i : Nat) (hi : i < 8) :
    (b &&& ~~~bitMask bit4).getLsbD i = if i = bit4.toNat % 8 then false else b.getLsbD i := by
  rw [BitVec.getLsbD_and, BitVec.getLsbD_not, bitMask_getLsbD, decide_eq_true hi]
  by_cases h : i = bit4.toNat % 8 <;> simp [h]

theorem bset_bit (bit4 : BitVec 4) (b : Byte) (i : Nat) (_ : i < 8) :
    (b ||| bitMask bit4).getLsbD i = if i = bit4.toNat % 8 then true else b.getLsbD i := by
  rw [BitVec.getLsbD_or, bitMask_getLsbD]
  by_cases h : i = bit4.toNat % 8 <;> simp [h]

/-! ### What the write of a register leaves alone -/

section Unwritten

variable (s : State)

theorem storeSfr_w_of {r : Sfr} (h : ∀ n, r ≠ .w n) (v : Word) : (s.storeSfr r v).w = s.w := by
  cases r with
  | w n => exact absurd rfl (h n)
  | _ => rfl

theorem storeSfr_sr_of {r : Sfr} (h : r ≠ .sr) (v : Word) : (s.storeSfr r v).sr = s.sr := by
  cases r with
  | sr => exact absurd rfl h
  | w n => exact setW_sr s n v
  | _ => rfl

theorem storeSfr_corcon_of {r : Sfr} (h : r ≠ .corcon) (v : Word) : (s.storeSfr r v).corcon = s.corcon := by
  cases r with
  | corcon => exact absurd rfl h
  | w n => exact setW_corcon s n v
  | _ => rfl

theorem storeSfr_intcon1_of {r : Sfr} (h : r ≠ .intcon1) (v : Word) : (s.storeSfr r v).intcon1 = s.intcon1 := by
  cases r with
  | intcon1 => exact absurd rfl h
  | w n => exact setW_intcon1 s n v
  | _ => rfl

theorem storeSfr_disicnt_of {r : Sfr} (h : r ≠ .disicnt) (v : Word) : (s.storeSfr r v).disicnt = s.disicnt := by
  cases r with
  | disicnt => exact absurd rfl h
  | w n => exact setW_disicnt s n v
  | _ => rfl

theorem storeSfr_splim_of {r : Sfr} (h : r ≠ .splim) (v : Word) : (s.storeSfr r v).splim = s.splim := by
  cases r with
  | splim => exact absurd rfl h
  | w n => exact setW_splim s n v
  | _ => rfl

theorem storeSfr_splimEn_of {r : Sfr} (h : r ≠ .splim) (v : Word) : (s.storeSfr r v).splimEn = s.splimEn := by
  cases r with
  | splim => exact absurd rfl h
  | w n => exact setW_splimEn s n v
  | _ => rfl

theorem storeSfr_trapr_of {r : Sfr} (h : r ≠ .rcon) (v : Word) : (s.storeSfr r v).trapr = s.trapr := by
  cases r with
  | rcon => exact absurd rfl h
  | w n => exact setW_trapr s n v
  | _ => rfl

theorem storeSfr_cf_of {r : Sfr} (h : r ≠ .osccon) (v : Word) : (s.storeSfr r v).cf = s.cf := by
  cases r with
  | osccon => exact absurd rfl h
  | w n => exact setW_cf s n v
  | _ => rfl

theorem storeSfr_intcon2_of {r : Sfr} (h : r ≠ .intcon2) (h' : r ≠ .disicnt) (v : Word) :
    (s.storeSfr r v).intcon2 = s.intcon2 := by
  cases r with
  | intcon2 => exact absurd rfl h
  | disicnt => exact absurd rfl h'
  | w n => exact setW_intcon2 s n v
  | _ => rfl

theorem storeSfr_ifs_of {r : Sfr} (h : ∀ n, r ≠ .ifs n) (v : Word) : (s.storeSfr r v).ifs = s.ifs := by
  cases r with
  | ifs n => exact absurd rfl (h n)
  | w n => exact setW_ifs s n v
  | _ => rfl

theorem storeSfr_iec_of {r : Sfr} (h : ∀ n, r ≠ .iec n) (v : Word) : (s.storeSfr r v).iec = s.iec := by
  cases r with
  | iec n => exact absurd rfl (h n)
  | w n => exact setW_iec s n v
  | _ => rfl

theorem storeSfr_ipc_of {r : Sfr} (h : ∀ n, r ≠ .ipc n) (v : Word) : (s.storeSfr r v).ipc = s.ipc := by
  cases r with
  | ipc n => exact absurd rfl (h n)
  | w n => exact setW_ipc s n v
  | _ => rfl

theorem storeSfr_slot_of {r : Sfr} (h : ∀ n, r ≠ .w n) (h' : r ≠ .intcon1) (v : Word) : (s.storeSfr r v).slot = s.slot := by
  cases r with
  | w n => exact absurd rfl (h n)
  | intcon1 => exact absurd rfl h'
  | _ => rfl

end Unwritten

/-! ### A register with one bit changed -/

/-- The machine after a bit instruction that leaves `v` for the register `r`, by its upper or lower byte. -/
def State.bitStored (s : State) (r : Sfr) (upper : Bool) (v : Word) : State :=
  ((s.begin.storeSfr r v).noteWrite r (laneMask upper &&& ~~~v)).advance.took 1

section OnRegister

variable {s : State} {f : BitVec 13} {bit4 : BitVec 4} {r : Sfr}

/-- A bit instruction in little-endian order, on a register other than SPLIM, RCON and OSCCON. -/
theorem modifyByte_register {g : Byte → Byte} {v : Bool} (hd : s.cfg.byteOrder = .little) (h : s.SfrIs (f.setWidth 16) r)
    (hi : s.cfg.dataImplemented (bitByteAddr f bit4) = true) (h1 : r ≠ .splim) (h2 : r ≠ .rcon) (h3 : r ≠ .osccon)
    (hg : ∀ b i, i < 8 → (g b).getLsbD i = if i = bit4.toNat % 8 then v else b.getLsbD i) :
    ∃ u, s.begin.modifyByte (bitByteAddr f bit4) g = .ok u ∧
      u.advance.took 1 = s.bitStored r (decide (8 ≤ bit4.toNat)) (setBit (s.sfrValue r) bit4.toNat v) := by
  have hs : s.begin.cfg.sfrAt (bitByteAddr f bit4) = some r := (sfrAt_bitByteAddr bit4 h.even).trans h.here
  have hu : s.begin.cfg.upperLane (bitByteAddr f bit4) = decide (8 ≤ bit4.toNat) := upperLane_bitByteAddr bit4 hd h.even
  have hread : s.begin.readSfr r = (s.sfrValue r, s.begin) := by
    have hopen : r.openMask = 0 := by
      cases r with
      | rcon => exact absurd rfl h2
      | osccon => exact absurd rfl h3
      | _ => rfl
    rw [State.readSfr, if_pos hopen]
    rfl
  refine ⟨_, modifyByte_sfr g hi hs rfl h1 h2 (fun h => absurd h h3), ?_⟩
  rw [hu, hread]
  dsimp only
  rw [show s.begin.sfrValue r = s.sfrValue r from rfl, withLane_bit hg]
  rfl

end OnRegister

/-- A bit instruction changes the one register, and raises a trap by a write of INTCON1 or of a W image alone. -/
theorem bitStored_frame (s : State) {r : Sfr} (upper : Bool) (v : Word) (h1 : r ≠ .splim) (h2 : r ≠ .rcon) (h3 : r ≠ .osccon)
    {x : State} (hx : x = s.bitStored r upper v) :
    x.pc = s.pc + 2 ∧ x.slot.cycles = 1 ∧ SameBytes s x ∧ SameHidden s x ∧ SameOutside s x ∧
      ((∀ n, r ≠ .w n) → SameW s x ∧ (r ≠ .intcon1 → x.slot.raised = .none)) ∧ (r ≠ .sr → r ≠ .corcon → SameStatus s x) ∧
      (r ≠ .intcon1 → r ≠ .intcon2 → r ≠ .disicnt → SameControl s x) ∧
      ((∀ n, r ≠ .ifs n) → x.ifs = s.ifs) ∧ ((∀ n, r ≠ .iec n) → x.iec = s.iec) ∧ ((∀ n, r ≠ .ipc n) → x.ipc = s.ipc) := by
  subst hx
  refine ⟨congrArg (· + 2) (storeSfr_pc s.begin r v), rfl,
    sameBytes_of_mem (storeSfr_mem s.begin r v) (storeSfr_epoch s.begin r v), ?_, ⟨storeSfr_cfg s.begin r v, storeSfr_prog s.begin r v, storeSfr_inputs s.begin r v, storeSfr_epoch s.begin r v⟩,
    fun h => ⟨sameW_of_w (storeSfr_w_of s.begin h v), fun h' => congrArg Slot.raised (storeSfr_slot_of s.begin h h' v)⟩,
    fun h h' => ⟨storeSfr_sr_of s.begin h v, storeSfr_corcon_of s.begin h' v⟩,
    fun h h' h'' => ⟨storeSfr_intcon1_of s.begin h v, storeSfr_intcon2_of s.begin h' h'' v, storeSfr_disicnt_of s.begin h'' v⟩,
    fun h => storeSfr_ifs_of s.begin h v, fun h => storeSfr_iec_of s.begin h v, fun h => storeSfr_ipc_of s.begin h v⟩
  exact ⟨storeSfr_splim_of s.begin h1 v, storeSfr_splimEn_of s.begin h1 v, storeSfr_trapr_of s.begin h2 v,
    storeSfr_cf_of s.begin h3 v, storeSfr_pcbuf s.begin r v, storeSfr_srlbuf s.begin r v, storeSfr_skidStack s.begin r v,
    storeSfr_skidMath s.begin r v, storeSfr_stallOsc s.begin r v, storeSfr_stallAddr s.begin r v, storeSfr_pinprev s.begin r v⟩

theorem storeSfr_written (s : State) (r : Sfr) (v : Word) : (s.storeSfr r v).slot.written = s.slot.written := by
  cases r with
  | w n => rw [State.storeSfr, setW_slot]
  | _ => rfl

theorem bitStored_written (s : State) (r : Sfr) (upper : Bool) (v : Word) :
    (s.bitStored r upper v).slot.written = [(r, laneMask upper &&& ~~~v)] :=
  congrArg ((r, laneMask upper &&& ~~~v) :: ·) (storeSfr_written s.begin r v)

/-- A bit instruction ends as the move of the value it leaves, but for the bits that can lose a race. -/
theorem bitStored_of_movToFile {s m : State} {r : Sfr} {a : DataAddr} {n : WReg} {v : Word} (upper : Bool) (h : s.SfrIs a r)
    (h2 : r ≠ .rcon) (hn : s.getW n = v) (hm : exec (.movToFile n a) s = .next m) :
    s.bitStored r upper v = { m with slot := { m.slot with written := (s.bitStored r upper v).slot.written } } := by
  subst hn
  rw [exec_movToFile_sfr n h (.inl h2)] at hm
  cases hm
  rfl

/-! ### One bit of IFSn, IECn and INTCON1 -/

/-- The flag or enable of an implemented vector, after one bit of the `k`-th register of its kind was set to `b`. -/
theorem flagField_setBit (d : Device) (xs : Vector Word 8) (k : Fin 8) {j : Nat} (hj : j < 16) (b : Bool) {v : Vec}
    (hv : d.implVec.getLsbD v.val = true) :
    ((xs.set k (blend (d.flagMask k) xs[k] (setBit (d.flagMask k &&& xs[k]) j b)))[v.val / 16]'(by omega)).getLsbD (v.val % 16) =
      if v.val = 16 * k.val + j then b else (xs[v.val / 16]'(by omega)).getLsbD (v.val % 16) := by
  rw [flagField_set]
  by_cases hk : v.val / 16 = k.val
  · have hplace : v.val % 16 = j ∧ v.val % 16 < 16 ↔ v.val = 16 * k.val + j := by omega
    have hmask : (d.flagMask k).getLsbD (v.val % 16) = true := by
      rw [flagMask_getLsbD d k (Nat.mod_lt _ (by decide)), ← hv]
      congr 1
      omega
    rw [if_pos ⟨hk, hv⟩, getLsbD_setBit, BitVec.getLsbD_and, hmask, Bool.true_and]
    simp only [hplace, hk, Fin.getElem_fin]
  · rw [if_neg fun h => hk h.1, if_neg (by omega)]

theorem bitStored_ifBit (s : State) (k : Fin 8) (upper : Bool) {j : Nat} (hj : j < 16) (b : Bool) {v : Vec}
    (hv : s.implemented v = true) : (s.bitStored (.ifs k) upper (setBit (s.sfrValue (.ifs k)) j b)).ifBit v =
      if v.val = 16 * k.val + j then b else s.ifBit v :=
  flagField_setBit s.cfg s.ifs k hj b hv

theorem bitStored_ieBit (s : State) (k : Fin 8) (upper : Bool) {j : Nat} (hj : j < 16) (b : Bool) {v : Vec}
    (hv : s.implemented v = true) : (s.bitStored (.iec k) upper (setBit (s.sfrValue (.iec k)) j b)).ieBit v =
      if v.val = 16 * k.val + j then b else s.ieBit v :=
  flagField_setBit s.cfg s.iec k hj b hv

theorem intcon1_value_bit (s : State) (b : Nat) (hb : b = 15 ∨ 1 ≤ b ∧ b ≤ 4) :
    (s.sfrValue .intcon1).getLsbD b = s.intcon1.getLsbD b := by
  have hmask : (0x801E : Word).getLsbD b = true := by
    obtain rfl | ⟨h1, h4⟩ := hb
    · rfl
    · interval_cases b <;> rfl
  change (0x801E &&& s.intcon1).getLsbD b = _
  rw [BitVec.getLsbD_and, hmask, Bool.true_and]

theorem bitStored_nstdis (s : State) (upper : Bool) (bit4 : BitVec 4) (b : Bool) :
    (s.bitStored .intcon1 upper (setBit (s.sfrValue .intcon1) bit4.toNat b)).nstdis = if bit4 = 15 then b else s.nstdis := by
  have hplace : (15 = bit4.toNat ∧ 15 < 16) ↔ bit4 = 15 := by
    rw [← BitVec.toNat_inj]
    simp [eq_comm]
  refine (writeIntcon1_bit s.begin _ (by decide)).trans ?_
  rw [if_pos rfl, getLsbD_setBit, intcon1_value_bit s 15 (.inl rfl)]
  simp only [hplace]
  rfl

theorem intcon1_written_flag (s : State) (bit4 : BitVec 4) (b : Bool) (y : Trap) :
    (setBit (s.sfrValue .intcon1) bit4.toNat b).getLsbD y.flagBit = if bit4.toNat = y.flagBit then b else s.trapFlag y := by
  obtain ⟨h1, h4⟩ := flagBit_lt y
  have hplace : (y.flagBit = bit4.toNat ∧ y.flagBit < 16) ↔ bit4.toNat = y.flagBit := by omega
  rw [getLsbD_setBit, intcon1_value_bit s _ (.inr ⟨h1, h4⟩)]
  simp only [hplace]
  rfl

theorem bitStored_trapFlag (s : State) (upper : Bool) (bit4 : BitVec 4) (b : Bool) (y : Trap) :
    (s.bitStored .intcon1 upper (setBit (s.sfrValue .intcon1) bit4.toNat b)).trapFlag y =
      ((if bit4.toNat = y.flagBit then b else s.trapFlag y) && (s.trapFlag y || s.cfg.swTrapflagSetTraps)) := by
  rw [← intcon1_written_flag]
  exact writeIntcon1_trapFlag s.begin _ y

theorem bitStored_has (s : State) (upper : Bool) (bit4 : BitVec 4) (b : Bool) (y : Trap) :
    (s.bitStored .intcon1 upper (setBit (s.sfrValue .intcon1) bit4.toNat b)).slot.raised.has y =
      ((if bit4.toNat = y.flagBit then b else s.trapFlag y) && !s.trapFlag y && s.cfg.swTrapflagSetTraps) := by
  rw [← intcon1_written_flag]
  refine (writeIntcon1_has s.begin _ y).trans ?_
  cases y <;> rfl

theorem laneMask_decide (bit4 : BitVec 4) :
    laneMask (decide (8 ≤ bit4.toNat)) = if bit4.toNat < 8 then 0x00FF else 0xFF00 := by
  by_cases h : 8 ≤ bit4.toNat
  · rw [decide_eq_true h, if_neg (by omega)]; rfl
  · rw [decide_eq_false h, if_pos (by omega)]; rfl

theorem trapSet_eq_none {r : TrapSet} (h : ∀ y, r.has y = false) : r = .none :=
  TrapSet.ext (h .oscillatorFail) (h .addressError) (h .stackError) (h .mathError)

/-- Settles O36: BCLR and BSET store the value of the register with the bit changed. -/
theorem bitInstructionsOnRegisters : Obligations.BitInstructionsOnRegisters := by
  intro f bit4 s r hd h hi h1 h2 h3
  obtain ⟨t, hclr, ht⟩ := modifyByte_register hd h hi h1 h2 h3 (bclr_bit bit4)
  obtain ⟨u, hset, hu⟩ := modifyByte_register hd h hi h1 h2 h3 (bset_bit bit4)
  have hbclr := exec_bclr_of (namesTrapr_false (by rw [sfrAt_bitByteAddr bit4 h.even, h.here]; simpa using h2) bit4) hclr
  have hbset := exec_bset_of hset
  rw [ht] at hbclr
  rw [hu] at hbset
  have hlt := bit4.isLt
  refine ⟨_, _, hbclr, hbset, fun n m => bitStored_of_movToFile _ h h2, fun n m => bitStored_of_movToFile _ h h2,
    ?_, ?_, ?_, ?_, ?_⟩
  · rintro x (hx | hx)
    · exact bitStored_frame s _ _ h1 h2 h3 hx
    · exact bitStored_frame s _ _ h1 h2 h3 hx
  · rintro mask rfl
    rw [bitStored_written, bitStored_written, laneMask_decide]
    exact ⟨rfl, rfl⟩
  · rintro k rfl v hv
    rw [bitStored_ifBit s k _ hlt _ hv, bitStored_ifBit s k _ hlt _ hv]
    by_cases hk : v.val = 16 * k.val + bit4.toNat <;> simp [hk]
  · rintro k rfl v hv
    rw [bitStored_ieBit s k _ hlt _ hv, bitStored_ieBit s k _ hlt _ hv]
    by_cases hk : v.val = 16 * k.val + bit4.toNat <;> simp [hk]
  · rintro rfl
    refine ⟨rfl, rfl, rfl, rfl, trapSet_eq_none fun y => ?_, ?_, ?_, fun y => ⟨?_, ?_, ?_⟩⟩
    · rw [bitStored_has]
      by_cases hy : bit4.toNat = y.flagBit <;> simp [hy]
    · rw [bitStored_nstdis, bne, beq_eq_decide]
      by_cases h15 : bit4 = 15
      · rw [if_pos h15, decide_eq_true h15, Bool.not_true, Bool.and_false]
      · rw [if_neg h15, decide_eq_false h15, Bool.not_false, Bool.and_true]
    · rw [bitStored_nstdis, beq_eq_decide]
      by_cases h15 : bit4 = 15
      · rw [if_pos h15, decide_eq_true h15, Bool.or_true]
      · rw [if_neg h15, decide_eq_false h15, Bool.or_false]
    · rw [bitStored_trapFlag]
      by_cases hy : bit4.toNat = y.flagBit <;> cases s.trapFlag y <;> simp [hy]
    · rw [bitStored_trapFlag]
      by_cases hy : bit4.toNat = y.flagBit <;> cases s.trapFlag y <;> simp [hy]
    · rw [bitStored_has]
      by_cases hy : bit4.toNat = y.flagBit <;> simp [hy]

end Sys2Proof.Machine
end

section
/-!
PROOFS. The rules over all instructions: what they refuse (R185), what no instruction changes (R25, R26, R29, R36, R159), and the
inhibit of an address error (R195).
-/

namespace Sys2Proof.Machine

/-! ### The end of an instruction -/

/-- The instruction loads the PC instead of advancing it. -/
def Instr.transfers : Instr → Bool
  | .goto _ => true
  | .bra _ => true
  | .ret => true
  | .retfie => true
  | .reset => true
  | _ => false

theorem completeStore_end {s t : State} {x : Except Refusal State} (hx : ∀ u, x = .ok u → u.pc = s.pc)
    (h : completeStore x = .next t) : t.pc = s.pc + 2 ∧ t.pcBeyond = pastTop s.pc 2 ∧ t.slot.cycles = 1 := by
  obtain ⟨u, hu, rfl⟩ := completeStore_next.1 h
  rw [← hx u hu]
  exact ⟨rfl, rfl, rfl⟩

theorem modifyByte_pc {s u : State} {a : DataAddr} {f : Byte → Byte} (h : s.modifyByte a f = .ok u) : u.pc = s.pc :=
  (modifyByte_write h).pc.trans (readByte_snd_pc s a)

theorem load_end {D : WReg → Prop} {s u : State} (h : State.Accessed D s.begin u) :
    (u.advance.took 1).pc = s.pc + 2 ∧ (u.advance.took 1).pcBeyond = pastTop s.pc 2 ∧ (u.advance.took 1).slot.cycles = 1 := by
  obtain ⟨_, _, _, _, rfl⟩ := h.same
  exact ⟨rfl, rfl, rfl⟩

/-- Every other instruction advances the PC by 2 in one cycle (R21, R160). -/
theorem exec_end {i : Instr} {s t : State} (h : exec i s = .next t) (hi : Instr.transfers i = false) :
    t.pc = s.pc + 2 ∧ t.pcBeyond = pastTop s.pc 2 ∧ t.slot.cycles = 1 := by
  cases i with
  | disi k => cases h; exact ⟨rfl, rfl, rfl⟩
  | retfie => cases hi
  | goto p => cases hi
  | bra n => cases hi
  | ret => cases hi
  | reset => cases hi
  | pwrsav k => cases h; exact ⟨rfl, rfl, rfl⟩
  | push f =>
    refine completeStore_end (fun u hu => ?_) h
    rw [(pushWord_ok hu).2, push16_pc, readWord_snd_pc, begin_pc]
  | pop f =>
    refine completeStore_end (fun u hu => ?_) h
    rw [(storeWord_ok hu).2, writeWord_pc, pop16_snd_pc, begin_pc]
  | nop => cases h; exact ⟨rfl, rfl, rfl⟩
  | movLit k d => cases h; exact load_end (.setW (D := fun _ => True) trivial s.begin k)
  | movToFile n f =>
    refine completeStore_end (fun u hu => ?_) h
    rw [(storeWord_ok hu).2, writeWord_pc, begin_pc]
  | movFromFile f d =>
    cases h
    exact load_end ((State.Accessed.readWord (fun _ => True) s.begin f).trans (.setW trivial _ _))
  | bset f b => exact completeStore_end (s := s) (fun u hu => modifyByte_pc (s := s.begin) hu) h
  | bclr f b =>
    rw [exec_bclr] at h
    refine completeStore_end (s := s) (fun u hu => ?_) h
    split at hu
    · cases hu; rfl
    · exact modifyByte_pc (s := s.begin) hu
  | iorLit k n => cases h; simp [State.advance, State.advanceBy]
  | movInd n d =>
    cases h
    exact load_end ((State.Accessed.readIndirect (fun _ => True) s.begin n).trans (.setW trivial _ _))

/-! ### What the write of a register cannot change -/

theorem ipl_congr {s t : State} (h : ∀ b, 5 ≤ b → b ≤ 7 → t.sr.getLsbD b = s.sr.getLsbD b) : t.ipl = s.ipl := by
  apply BitVec.eq_of_getLsbD_eq
  intro i hi
  rw [State.ipl, State.ipl, BitVec.getLsbD_extractLsb', BitVec.getLsbD_extractLsb', h (5 + i) (by omega) (by omega)]

/-- While NSTDIS = 1 a software write leaves IPL<2:0> alone (R25). -/
theorem storeSfr_ipl (s : State) (r : Sfr) (v : Word) (hn : s.nstdis = true) : (s.storeSfr r v).ipl = s.ipl := by
  by_cases hr : r = .sr
  · subst hr
    exact ipl_congr fun b h5 h7 => (storeSr_bit s v (by omega)).trans (if_pos (.inr (.inr ⟨h5, h7, hn⟩)))
  · rw [State.ipl, storeSfr_sr_of s hr, State.ipl]

theorem storeSfr_ra (s : State) (r : Sfr) (v : Word) : (s.storeSfr r v).sr.getLsbD 4 = s.sr.getLsbD 4 := by
  by_cases hr : r = .sr
  · subst hr
    exact (storeSr_bit s v (by decide)).trans (if_pos (.inl rfl))
  · rw [storeSfr_sr_of s hr]

/-- No software write takes IPL3 from 0 to 1 (R29). -/
theorem storeSfr_ipl3 (s : State) (r : Sfr) (v : Word) (ht : (s.storeSfr r v).ipl3 = true) : s.ipl3 = true := by
  by_cases hr : r = .corcon
  · subst hr
    rw [State.ipl3, storeCorcon_bit s v (by decide), if_pos rfl, Bool.and_eq_true] at ht
    exact ht.1
  · rwa [State.ipl3, storeSfr_corcon_of s hr] at ht

/-- No software write begins a DISI (R36, R124). -/
theorem storeSfr_disiBit (s : State) (r : Sfr) (v : Word) (ht : (s.storeSfr r v).disiBit = true) : s.disiBit = true := by
  by_cases h2 : r = .intcon2
  · subst h2
    have hpins := s.cfg.nExtInt.isLt
    rwa [State.disiBit, storeIntcon2_bit s v (by decide), if_neg (by omega)] at ht
  by_cases hd : r = .disicnt
  · subst hd
    have h := (writeDisicnt_disiBit s _).symm.trans ht
    exact (Bool.and_eq_true_iff.1 h).1
  · rwa [State.disiBit, storeSfr_intcon2_of s h2 hd] at ht

theorem storeSfr_splimEn (s : State) (r : Sfr) (v : Word) (hs : s.splimEn = true) : (s.storeSfr r v).splimEn = true := by
  by_cases hr : r = .splim
  · subst hr; rfl
  · rwa [storeSfr_splimEn_of s hr]

/-! ### What a data-space write cannot change -/

/-- A data-space write keeps what byte stores, address errors and register writes keep. -/
theorem State.Write.keeps {P : State → Prop} {s t : State} (h : s.Write t) (hs : P s) (raise : P (s.raise .addressError))
    (ram : ∀ m, P { s with mem := m }) (sfr : ∀ r v, P (s.storeSfr r v)) (note : ∀ u r z, P u → P (u.noteWrite r z)) : P t := by
  cases h with
  | none => exact hs
  | odd => exact raise
  | ramWord _ a v =>
    unfold State.putRamWord
    split <;> exact ram _
  | ramByte _ a b => exact ram _
  | sfr _ r v z => exact note _ _ _ (sfr r v)
  | clearTrapr => exact sfr _ _

namespace State.Write

variable {s t : State} (h : s.Write t)

include h

theorem ipl (hn : s.nstdis = true) : t.ipl = s.ipl :=
  h.keeps (P := fun u => u.ipl = s.ipl) rfl rfl (fun _ => rfl) (fun r v => storeSfr_ipl s r v hn) (fun _ _ _ hu => hu)

theorem ra : t.sr.getLsbD 4 = s.sr.getLsbD 4 :=
  h.keeps (P := fun u => u.sr.getLsbD 4 = s.sr.getLsbD 4) rfl rfl (fun _ => rfl) (fun r v => storeSfr_ra s r v)
    (fun _ _ _ hu => hu)

theorem ipl3 : t.ipl3 = true → s.ipl3 = true :=
  h.keeps (P := fun u => u.ipl3 = true → s.ipl3 = true) id id (fun _ => id) (fun r v => storeSfr_ipl3 s r v) (fun _ _ _ hu => hu)

theorem disiBit : t.disiBit = true → s.disiBit = true :=
  h.keeps (P := fun u => u.disiBit = true → s.disiBit = true) id id (fun _ => id) (fun r v => storeSfr_disiBit s r v)
    (fun _ _ _ hu => hu)

theorem splimEn (hs : s.splimEn = true) : t.splimEn = true :=
  h.keeps (P := fun u => u.splimEn = true) hs hs (fun _ => hs) (fun r v => storeSfr_splimEn s r v hs) (fun _ _ _ hu => hu)

end State.Write

/-! ### The rules -/

/-- IOR changes no bit of SR but N and Z (R157). -/
theorem srAfterIor_bit (sr r : Word) {b : Nat} (h1 : b ≠ 1) (h3 : b ≠ 3) : (srAfterIor sr r).getLsbD b = sr.getLsbD b := by
  rw [getLsbD_srAfterIor, if_neg h1, if_neg h3]

/-- Settles O40: by the way the instruction ran. -/
theorem nstdisMakesIplReadOnly : Obligations.NstdisMakesIplReadOnly := by
  intro i s t h hn hretfie hreset
  cases ran_of_exec h with
  | plain reads write update quiet ended =>
    obtain ⟨_, _, _, _, rfl⟩ := reads.same
    obtain ⟨_, _, _, _, rfl⟩ := update.same
    obtain ⟨_, _, _, rfl⟩ := ended
    exact write.ipl hn
  | movLit k d => exact ipl_congr fun b _ _ => congrArg (BitVec.getLsbD · b) (setW_sr s.begin d k)
  | iorLit k n => exact ipl_congr fun b h5 h7 => srAfterIor_bit s.sr _ (by omega) (by omega)
  | disi k => rfl
  | retfie => exact absurd rfl hretfie
  | reset => exact absurd rfl hreset
  | pwrsav k => rfl

/-- A mark that does not rise: it is not 1 after and 0 before. -/
theorem absurd_rise {a b : Bool} {p : Prop} (h : b = true → a = true) (ha : a = false) (hb : b = true) : p :=
  absurd (ha.symm.trans (h hb)) Bool.false_ne_true

theorem bit_of_eq {x y : Word} (h : y = x) (b : Nat) : y.getLsbD b = true → x.getLsbD b = true := fun hy => h ▸ hy

/-- Settles O41: by the way the instruction ran. -/
theorem readOnlyBitsAreReadOnly : Obligations.ReadOnlyBitsAreReadOnly := by
  intro i s t h
  cases ran_of_exec h with
  | plain reads write update quiet ended =>
    obtain ⟨_, _, _, _, rfl⟩ := reads.same
    obtain ⟨_, _, _, _, rfl⟩ := update.same
    obtain ⟨_, _, _, rfl⟩ := ended
    exact ⟨fun _ _ => write.ra, absurd_rise write.ipl3, absurd_rise write.disiBit⟩
  | movLit k d =>
    exact ⟨fun _ _ => congrArg (BitVec.getLsbD · 4) (setW_sr s.begin d k), absurd_rise (bit_of_eq (setW_corcon s.begin d k) 3),
      absurd_rise (bit_of_eq (setW_intcon2 s.begin d k) 14)⟩
  | iorLit k n =>
    exact ⟨fun _ _ => srAfterIor_bit s.sr _ (by decide) (by decide), absurd_rise (bit_of_eq (setW_corcon s.begin n _) 3),
      absurd_rise (bit_of_eq (setW_intcon2 s.begin n _) 14)⟩
  | disi k => exact ⟨fun _ _ => rfl, absurd_rise id, fun _ _ => ⟨k, rfl⟩⟩
  | retfie =>
    exact ⟨fun hi => absurd rfl hi, fun _ _ => rfl, absurd_rise (bit_of_eq (popFrame_state_intcon2 s.begin) 14)⟩
  | reset =>
    exact ⟨fun _ hi => absurd rfl hi, fun _ ht => absurd (show (0#16).getLsbD 3 = true from ht) (by decide),
      fun _ ht => absurd (show (0#16).getLsbD 14 = true from ht) (by decide)⟩
  | pwrsav k => exact ⟨fun _ _ => rfl, absurd_rise id, absurd_rise id⟩

/-- What R159 item 7 calls hidden state, but for MODE. -/
def State.HiddenKept (s t : State) : Prop :=
  t.stallOsc = s.stallOsc ∧ t.stallAddr = s.stallAddr ∧ t.skidStack = s.skidStack ∧ t.skidMath = s.skidMath ∧
    t.pinprev = s.pinprev ∧ (s.splimEn = true → t.splimEn = true)

theorem State.DataChange.hiddenKept {s t : State} (h : s.DataChange t) : t.mode = s.mode ∧ s.HiddenKept t := by
  obtain ⟨_, _, _, _, _, _, _, _, _, rfl⟩ := h
  exact ⟨rfl, rfl, rfl, rfl, rfl, rfl, id⟩

theorem movLit_dataChange (s : State) (k : Word) (d : WReg) : s.DataChange ((s.begin.setW d k).advance.took 1) :=
  ((begin_dataChange s).trans (setW_dataChange _ d k)).trans (advance_took_dataChange _ 1)

theorem iorLit_dataChange (s : State) (k : Word) (n : WReg) (r : Word) :
    s.DataChange ({ s.begin.setW n k with sr := r }.advance.took 1) :=
  ((begin_dataChange s).trans (setW_dataChange _ n k)).trans ⟨_, _, _, _, _, _, _, _, _, rfl⟩

theorem retfie_dataChange (s : State) : s.DataChange (s.begin.returnFromException.took 3) :=
  (State.Accessed.popFrame (D := fun _ => True) trivial s.begin).dataChange.trans ⟨_, _, _, _, _, _, _, _, _, rfl⟩

theorem ran_hiddenKept {i : Instr} {s t : State} (h : s.Ran i t) (hi : i ≠ .reset) :
    ((∀ k, i ≠ .pwrsav k) → t.mode = s.mode) ∧ s.HiddenKept t := by
  cases h with
  | plain reads write update quiet ended =>
    obtain ⟨_, _, _, _, rfl⟩ := reads.same
    obtain ⟨_, _, _, _, rfl⟩ := update.same
    obtain ⟨_, _, _, rfl⟩ := ended
    exact ⟨fun _ => write.mode, write.stallOsc, write.stallAddr, write.skidStack, write.skidMath, write.pinprev, write.splimEn⟩
  | movLit k d => exact (movLit_dataChange s k d).hiddenKept.imp_left fun h _ => h
  | iorLit k n => exact (iorLit_dataChange s _ n _).hiddenKept.imp_left fun h _ => h
  | disi k => exact ⟨fun _ => rfl, rfl, rfl, rfl, rfl, rfl, id⟩
  | retfie => exact (retfie_dataChange s).hiddenKept.imp_left fun h _ => h
  | reset => exact absurd rfl hi
  | pwrsav k => exact ⟨fun hk => absurd rfl (hk k), rfl, rfl, rfl, rfl, rfl, id⟩

/-- Settles O42: the way the instruction ran, and its end. -/
theorem instructionsLeaveHiddenState : Obligations.InstructionsLeaveHiddenState := by
  intro i s t h
  have hkept := ran_hiddenKept (ran_of_exec h)
  refine ⟨fun hi => (hkept hi).1, fun hi => (hkept hi).2, ?_, ?_⟩
  · cases i with
    | goto p => cases h; rfl
    | bra n => cases h; rfl
    | ret => cases h; rfl
    | retfie => cases h; rfl
    | reset => cases h; rfl
    | _ => exact (exec_end h rfl).2.2
  · cases i with
    | goto p => cases h; rfl
    | bra n => cases h; rfl
    | ret => cases h; rfl
    | retfie => cases h; rfl
    | reset => cases h; rfl
    | _ => exact (exec_end h rfl).2.1

/-! ### The inhibit of an address error -/

/-- A register write raises an address error only by setting the flag ADDRERR (R199). -/
theorem storeSfr_raised_addr (s : State) (r : Sfr) (v : Word) (hs : s.slot.raised.addr = false)
    (hflag : (s.storeSfr r v).trapFlag .addressError = true → s.trapFlag .addressError = true) :
    (s.storeSfr r v).slot.raised.addr = false := by
  by_cases h1 : r = .intcon1
  · subst h1
    have hraised := writeIntcon1_has s v .addressError
    have hset := writeIntcon1_trapFlag s v .addressError
    change (s.writeIntcon1 v).trapFlag .addressError = true → _ at hflag
    change (s.writeIntcon1 v).slot.raised.has .addressError = false
    rw [hset] at hflag
    rw [hraised, show s.slot.raised.has .addressError = false from hs, Bool.false_or]
    revert hflag
    cases s.trapFlag .addressError <;> cases v.getLsbD (Trap.flagBit .addressError) <;> cases s.cfg.swTrapflagSetTraps <;> simp
  by_cases hw : ∃ n, r = .w n
  · obtain ⟨n, rfl⟩ := hw
    exact (setW_raised_addr s n v).trans hs
  · rw [storeSfr_slot_of s (fun n e => hw ⟨n, e⟩) h1, hs]

/-- Where an address error is marked exactly when it inhibits, a write that leaves one marked wrote nothing, unless it set the flag
ADDRERR itself. -/
theorem State.Write.of_addressError {s t : State} (h : s.Write t) (hin : s.slot.raised.addr = s.wrinh)
    (ha : t.slot.raised.addr = true) (hflag : t.trapFlag .addressError = true → s.trapFlag .addressError = true) :
    t = s ∨ t = s.raise .addressError := by
  cases h with
  | none => exact .inl rfl
  | odd => exact .inr rfl
  | ramWord hw a v =>
    rw [putRamWord_slot, hin, hw] at ha
    cases ha
  | ramByte hw a b =>
    rw [putRamByte_slot, hin, hw] at ha
    cases ha
  | sfr hw r v z =>
    have hnot := storeSfr_raised_addr s r v (hin.trans hw) hflag
    rw [noteWrite_slot] at ha
    exact absurd (hnot.symm.trans ha) Bool.false_ne_true
  | clearTrapr hw => exact absurd ((hin.trans hw).symm.trans ha) Bool.false_ne_true

/-- An instruction that raised an address error by its accesses changed only working registers it may load. -/
theorem State.Accessed.inhibited {i : Instr} {s u t : State} (h : State.Accessed (Instr.mayLoad i) s.begin u) (e : u.Ended t) :
    SameBytes s t ∧ SameControl s t ∧ SameSources s t ∧ SameHidden s t ∧ (i ≠ .retfie → SameStatus s t) ∧
      ∀ n, n ≠ 15 → (∀ f, i ≠ .movFromFile f n) → (∀ m, i ≠ .movInd m n) → t.getW n = s.getW n := by
  obtain ⟨hstatus, hsys, hbytes, hw⟩ := h.ended e
  refine ⟨hbytes, hsys.control, hsys.sources, hsys.hidden, fun _ => hstatus, fun n h15 hf hm => hw n ?_⟩
  rintro (h | ⟨f, h⟩ | ⟨m, h⟩)
  · exact h15 h
  · exact hf f h
  · exact hm m h

/-- Settles O43: a write takes place only before any address error, and then it can raise one by the flag alone. -/
theorem addressErrorInhibitsWrites : Obligations.AddressErrorInhibitsWrites := by
  intro i s t h ha hflag
  cases ran_of_exec h with
  | plain reads write update quiet ended =>
    rename_i s1 s2 s3
    have hin := reads.inhibits rfl
    have hraised : s2.slot.raised.addr = true := by
      obtain ⟨_, _, _, rfl⟩ := ended
      exact quiet.symm.trans ha
    have hflag' : s2.trapFlag .addressError = true → s1.trapFlag .addressError = true := by
      obtain ⟨_, _, _, _, rfl⟩ := reads.same
      obtain ⟨_, _, _, _, rfl⟩ := update.same
      obtain ⟨_, _, _, rfl⟩ := ended
      exact hflag
    obtain rfl | rfl := write.of_addressError hin hraised hflag'
    · exact State.Accessed.inhibited (reads.trans update) ended
    · exact State.Accessed.inhibited ((reads.trans (.raise _ _ _)).trans update) ended
  | movLit k d => exact absurd ((setW_raised_addr s.begin d k).symm.trans ha) Bool.false_ne_true
  | iorLit k n => exact absurd ((setW_raised_addr s.begin n _).symm.trans ha) Bool.false_ne_true
  | disi k => cases ha
  | retfie =>
    have hsys := (retfie_dataChange s).sameSystem
    refine ⟨sameBytes_of_mem (popFrame_state_mem s.begin) (popFrame_state_epoch s.begin), hsys.control, hsys.sources, hsys.hidden,
      fun hi => absurd rfl hi, fun n h15 _ _ => popFrame_otherW s.begin n h15⟩
  | reset => cases ha
  | pwrsav k => cases ha

/-! ### What is refused -/

theorem completeStore_refused {x : Except Refusal State} {r : Refusal} : completeStore x = .refused r ↔ x = .error r := by
  cases x <;> simp [completeStore]

theorem completeStore_total (x : Except Refusal State) :
    (∃ t, completeStore x = .next t) ∨ ∃ r, completeStore x = .refused r := by
  cases x with
  | ok u => exact .inl ⟨_, rfl⟩
  | error r => exact .inr ⟨r, rfl⟩

/-- No instruction faults. -/
theorem exec_total (i : Instr) (s : State) : (∃ t, exec i s = .next t) ∨ ∃ r, exec i s = .refused r := by
  cases i with
  | push f => exact completeStore_total _
  | pop f => exact completeStore_total _
  | movToFile n f => exact completeStore_total _
  | bset f b => exact completeStore_total _
  | bclr f b => exact completeStore_total _
  | _ => exact .inl ⟨_, rfl⟩

theorem storeWord_error_iff {s : State} {a : DataAddr} {v : Word} {r : Refusal} :
    s.storeWord a v = .error r ↔ (s.writesRcon a && v.getLsbD 15) = true ∧ r = .rconOtherUse := by
  refine ⟨storeWord_error, ?_⟩
  rintro ⟨h, rfl⟩
  exact if_pos h

theorem pushWord_error_iff {s : State} {v : Word} {r : Refusal} :
    s.pushWord v = .error r ↔ (s.writesRcon s.sp && v.getLsbD 15) = true ∧ r = .rconOtherUse := by
  refine ⟨pushWord_error, ?_⟩
  rintro ⟨h, rfl⟩
  exact if_pos h

/-- A word write of RCON takes place where no address error was raised. -/
theorem writesRcon_iff {s : State} {a : DataAddr} : s.writesRcon a = true ↔ s.SfrIs a .rcon ∧ s.wrinh = false := by
  rw [State.writesRcon]
  constructor
  · intro h
    simp only [Bool.and_eq_true, Bool.not_eq_true', beq_iff_eq] at h
    obtain ⟨⟨⟨he, hw⟩, hi⟩, hs⟩ := h
    exact ⟨⟨he, hi, hs⟩, hw⟩
  · rintro ⟨h, hw⟩
    rw [h.even, h.implemented, h.here, hw]
    rfl

theorem swriteByte_error_iff {s : State} {x : Sfr} {upper : Bool} {b : Byte} {r : Refusal} (hx : x ≠ .rcon) :
    s.swriteByte x upper b = .error r ↔
      x = .splim ∧ r = .splimByteWrite ∨ x = .osccon ∧ upper = true ∧ r = .oscconOtherUse := by
  unfold State.swriteByte
  by_cases h1 : x = .splim
  · subst h1
    simp [eq_comm]
  rw [if_neg h1, if_neg fun h => hx h.1]
  by_cases h2 : x = .osccon ∧ upper = true
  · obtain ⟨rfl, rfl⟩ := h2
    simp [eq_comm]
  · rw [if_neg h2]
    constructor
    · intro h; cases h
    · rintro (⟨h, -⟩ | ⟨h, h', -⟩)
      · exact absurd h h1
      · exact absurd ⟨h, h'⟩ h2

/-- The bytes whose change by a bit instruction is refused (R23, R46, R47). -/
theorem modifyByte_error_iff {s : State} {a : DataAddr} {f : Byte → Byte} {r : Refusal} (hw : s.wrinh = false) :
    s.modifyByte a f = .error r ↔ s.cfg.dataImplemented a = true ∧
      (s.cfg.sfrAt a = some .splim ∧ r = .splimByteWrite ∨ s.cfg.sfrAt a = some .rcon ∧ r = .rconOtherUse ∨
        s.cfg.sfrAt a = some .osccon ∧ s.cfg.upperLane a = true ∧ r = .oscconOtherUse) := by
  cases hi : s.cfg.dataImplemented a
  · rw [modifyByte_bad f hi]
    simp
  cases hs : s.cfg.sfrAt a with
  | none =>
    rw [modifyByte_ram f hi hs hw]
    simp
  | some x =>
    by_cases hx : x = .rcon
    · subst hx
      rw [State.modifyByte, hi, hs, if_pos (by simp)]
      simp only [Except.error.injEq, Option.some.injEq, reduceCtorEq, true_and, false_and, or_false, false_or]
      exact eq_comm
    · rw [modifyByte_eq_swriteByte f hi hs hw hx, swriteByte_error_iff hx]
      simp [hx]

theorem pop16_begin_wrinh (s : State) : s.begin.pop16.2.wrinh = !s.cfg.dataImplemented (s.sp - 2) := by
  have hsp : (s.begin.setW 15 (s.begin.getW 15 - 2)).getW 15 = s.sp - 2 :=
    (getW_setW_same s.begin 15 _).trans (and_FFFE_of_even (even_sub_two (sp_even s)))
  have heven : (s.sp - 2).getLsbD 0 = false := even_sub_two (sp_even s)
  unfold State.pop16
  dsimp only
  rw [readWord_snd_wrinh, hsp, heven, checkStackEA_wrinh, setW_wrinh, checkStackEA_cfg, setW_cfg]
  rfl

theorem bclr_error_iff {s : State} {f : BitVec 13} {bit4 : BitVec 4} {r : Refusal} :
    (if s.namesTrapr (bitByteAddr f bit4) bit4 then Except.ok s.begin.clearTrapr
      else s.begin.modifyByte (bitByteAddr f bit4) (fun b => b &&& ~~~bitMask bit4)) = .error r ↔
    s.namesTrapr (bitByteAddr f bit4) bit4 = false ∧
      s.begin.modifyByte (bitByteAddr f bit4) (fun b => b &&& ~~~bitMask bit4) = .error r := by
  cases s.namesTrapr (bitByteAddr f bit4) bit4 <;> simp

theorem sfrIs_iff {s t : State} {a : DataAddr} {r : Sfr} (hc : t.cfg = s.cfg) : t.SfrIs a r ↔ s.SfrIs a r :=
  ⟨sfrIs_congr hc.symm, sfrIs_congr hc⟩

theorem movToFile_refused {s : State} {n : WReg} {f : DataAddr} {r : Refusal} : exec (.movToFile n f) s = .refused r ↔
    s.SfrIs f .rcon ∧ (s.getW n).getLsbD 15 = true ∧ r = .rconOtherUse := by
  have hwrites : s.begin.writesRcon f = true ↔ s.SfrIs f .rcon :=
    writesRcon_iff.trans ((and_iff_left (show s.begin.wrinh = false from rfl)).trans (sfrIs_iff rfl))
  refine completeStore_refused.trans ?_
  rw [storeWord_error_iff, Bool.and_eq_true, hwrites, and_assoc]

theorem pop_refused {s : State} {f : DataAddr} {r : Refusal} : exec (.pop f) s = .refused r ↔
    s.SfrIs f .rcon ∧ s.cfg.dataImplemented (s.sp - 2) = true ∧ s.begin.pop16.1.getLsbD 15 = true ∧ r = .rconOtherUse := by
  have hwrites : s.begin.pop16.2.writesRcon f = true ↔ s.SfrIs f .rcon ∧ s.cfg.dataImplemented (s.sp - 2) = true := by
    rw [writesRcon_iff, pop16_begin_wrinh, Bool.not_eq_false', sfrIs_iff (s := s) (pop16_snd_cfg s.begin)]
  refine completeStore_refused.trans ?_
  rw [storeWord_error_iff, Bool.and_eq_true, hwrites, and_assoc, and_assoc]

theorem push_refused {s : State} {f : DataAddr} {r : Refusal} : exec (.push f) s = .refused r ↔
    s.SfrIs s.sp .rcon ∧ f.getLsbD 0 = false ∧ s.cfg.dataImplemented f = true ∧
      (s.begin.readWord f).1.getLsbD 15 = true ∧ r = .rconOtherUse := by
  have hsp : (s.begin.readWord f).2.sp = s.sp := getW_congr (readWord_snd_w s.begin f) 15
  have hwrites : (s.begin.readWord f).2.writesRcon s.sp = true ↔
      s.SfrIs s.sp .rcon ∧ f.getLsbD 0 = false ∧ s.cfg.dataImplemented f = true := by
    rw [writesRcon_iff, readWord_snd_wrinh, sfrIs_iff (s := s) (readWord_snd_cfg s.begin f), Bool.or_eq_false_iff,
      Bool.or_eq_false_iff, Bool.not_eq_false', and_iff_right (show s.begin.wrinh = false from rfl)]
    rfl
  refine completeStore_refused.trans ?_
  rw [pushWord_error_iff, hsp, Bool.and_eq_true, hwrites, and_assoc, and_assoc, and_assoc]

theorem namesTrapr_iff {s : State} {a : DataAddr} {bit4 : BitVec 4} : s.namesTrapr a bit4 = true ↔
    s.cfg.dataImplemented a = true ∧ s.cfg.sfrAt a = some .rcon ∧ s.cfg.upperLane a = true ∧ bit4.toNat % 8 = 7 := by
  rw [← slice_eq_seven_iff]
  simp only [State.namesTrapr, Bool.and_eq_true, beq_iff_eq, and_assoc]

/-- Settles O39: each kind of write, and what it refuses. -/
theorem onlyNamedWritesAreRefused : Obligations.OnlyNamedWritesAreRefused := by
  intro i s
  refine ⟨exec_total i s, fun r => ?_, fun f bit4 t hi h => ?_⟩
  · cases i with
    | push f =>
      rw [push_refused]
      simp only [reduceCtorEq, Instr.push.injEq, false_or, false_and, exists_false]
      constructor
      · intro h; exact ⟨f, rfl, h⟩
      · rintro ⟨_, rfl, h⟩; exact h
    | pop f =>
      rw [pop_refused]
      simp only [reduceCtorEq, Instr.pop.injEq, false_or, or_false, false_and, exists_false]
      constructor
      · intro h; exact ⟨f, rfl, h⟩
      · rintro ⟨_, rfl, h⟩; exact h
    | movToFile n f =>
      rw [movToFile_refused]
      simp only [reduceCtorEq, Instr.movToFile.injEq, false_or, or_false, false_and, exists_false]
      constructor
      · intro h; exact ⟨n, f, ⟨rfl, rfl⟩, h⟩
      · rintro ⟨_, _, ⟨rfl, rfl⟩, h⟩; exact h
    | bset f b =>
      refine (completeStore_refused.trans (modifyByte_error_iff (s := s.begin) rfl)).trans ?_
      constructor
      · rintro ⟨hi, h⟩
        exact .inl ⟨f, b, _, .inl rfl, rfl, hi, h.imp_right (Or.imp_left fun h => ⟨h.1, h.2, fun h' => nomatch h'.1⟩)⟩
      · rintro (⟨_, _, _, h | h, rfl, hi, hr⟩ | ⟨_, _, h, _⟩ | ⟨_, h, _⟩ | ⟨_, h, _⟩) <;> cases h
        exact ⟨hi, hr.imp_right (Or.imp_left fun h => ⟨h.1, h.2.1⟩)⟩
    | bclr f b =>
      rw [exec_bclr, completeStore_refused, bclr_error_iff, modifyByte_error_iff rfl]
      constructor
      · rintro ⟨hn, hi, h⟩
        refine .inl ⟨f, b, _, .inr rfl, rfl, hi, h.imp_right (Or.imp_left fun h => ⟨h.1, h.2, ?_⟩)⟩
        rintro ⟨-, hu, hb⟩
        exact Bool.false_ne_true (hn.symm.trans (namesTrapr_iff.2 ⟨hi, h.1, hu, hb⟩))
      · rintro (⟨_, _, _, h | h, rfl, hi, hr⟩ | ⟨_, _, h, _⟩ | ⟨_, h, _⟩ | ⟨_, h, _⟩) <;> cases h
        refine ⟨Bool.eq_false_iff.2 fun hn => ?_, hi, hr.imp_right (Or.imp_left fun h => ⟨h.1, h.2.1⟩)⟩
        obtain ⟨-, hs, hu, hb⟩ := namesTrapr_iff.1 hn
        obtain ⟨h, -⟩ | ⟨-, -, h⟩ | ⟨h, -⟩ := hr
        · cases hs.symm.trans h
        · exact h ⟨rfl, hu, hb⟩
        · cases hs.symm.trans h
    | _ =>
      refine iff_of_false nofun ?_
      rintro (⟨_, _, _, h | h, _⟩ | ⟨_, _, h, _⟩ | ⟨_, h, _⟩ | ⟨_, h, _⟩) <;> cases h
  · obtain rfl | rfl := hi
    · exact (exec_end h rfl).1
    · exact (exec_end h rfl).1

end Sys2Proof.Machine
end

section
/-!
PROOFS. The contract of an instruction outside the opcode table (R159): what the actions of an answer keep, and what each raises.
-/

namespace Sys2Proof.Machine

/-! ### The value of a register that another write leaves alone -/

theorem storeSfr_ifs_other (s : State) {r : Sfr} {n : Fin 8} (h : r ≠ .ifs n) (v : Word) :
    (s.storeSfr r v).ifs[n] = s.ifs[n] := by
  by_cases hr : ∃ m, r = .ifs m
  · obtain ⟨m, rfl⟩ := hr
    exact Vector.getElem_set_ne m.isLt n.isLt fun e => h (congrArg Sfr.ifs (Fin.ext e))
  · rw [storeSfr_ifs_of s (fun m e => hr ⟨m, e⟩)]

theorem storeSfr_iec_other (s : State) {r : Sfr} {n : Fin 8} (h : r ≠ .iec n) (v : Word) :
    (s.storeSfr r v).iec[n] = s.iec[n] := by
  by_cases hr : ∃ m, r = .iec m
  · obtain ⟨m, rfl⟩ := hr
    exact Vector.getElem_set_ne m.isLt n.isLt fun e => h (congrArg Sfr.iec (Fin.ext e))
  · rw [storeSfr_iec_of s (fun m e => hr ⟨m, e⟩)]

theorem storeSfr_ipc_other (s : State) {r : Sfr} {n : Fin 30} (h : r ≠ .ipc n) (v : Word) :
    (s.storeSfr r v).ipc[n] = s.ipc[n] := by
  by_cases hr : ∃ m, r = .ipc m
  · obtain ⟨m, rfl⟩ := hr
    exact Vector.getElem_set_ne m.isLt n.isLt fun e => h (congrArg Sfr.ipc (Fin.ext e))
  · rw [storeSfr_ipc_of s (fun m e => hr ⟨m, e⟩)]

/-- A write of one register leaves the value of another, but that one of DISICNT can end a DISI (R125). -/
theorem sfrValue_storeSfr_other (s : State) {r q : Sfr} (v : Word) (h : r ≠ q) (hw : ∀ n, q ≠ .w n)
    (hd : q = .intcon2 → r ≠ .disicnt) : (s.storeSfr r v).sfrValue q = s.sfrValue q := by
  unfold State.sfrValue
  rw [storeSfr_cfg]
  cases q with
  | w n => exact absurd rfl (hw n)
  | splim => simp only [storeSfr_splim_of s h]
  | sr => simp only [storeSfr_sr_of s h]
  | corcon => simp only [storeSfr_corcon_of s h]
  | disicnt => simp only [storeSfr_disicnt_of s h]
  | intcon1 => simp only [storeSfr_intcon1_of s h]
  | intcon2 => simp only [storeSfr_intcon2_of s h (hd rfl)]
  | ifs n => simp only [storeSfr_ifs_other s h]
  | iec n => simp only [storeSfr_iec_other s h]
  | ipc n => simp only [storeSfr_ipc_other s h]
  | rcon => simp only [storeSfr_trapr_of s h]
  | osccon => simp only [storeSfr_cf_of s h]

/-- A register write withdraws no trap raised before it. -/
theorem storeSfr_raised_mono (s : State) (r : Sfr) (v : Word) (x : Trap) (h : s.slot.raised.has x = true) :
    (s.storeSfr r v).slot.raised.has x = true := by
  cases r with
  | w n =>
    rw [State.storeSfr, setW_slot]
    split
    · exact (raised_has_insert _ _ _).trans (by rw [h, Bool.or_true])
    · exact h
  | intcon1 => exact (writeIntcon1_has s v x).trans (by rw [h, Bool.true_or])
  | _ => exact h

/-! ### What the actions keep -/

/-- What every action, and so every sequence of actions, keeps: the parts of the contract that hold from any state on. -/
structure State.Performed (s t : State) : Prop where
  raised_addr : s.slot.raised.addr = true → t.slot.raised.addr = true
  raised_stk : s.slot.raised.stk = true → t.slot.raised.stk = true
  raised_math : s.slot.raised.math = true → t.slot.raised.math = true
  wrinh : s.wrinh = true → t.wrinh = true
  written : ∀ e ∈ s.slot.written, e ∈ t.slot.written
  inhibits : s.wrinh = true →
    t.mem = s.mem ∧ (∀ r, r ≠ .sr → (∀ n, r ≠ .w n) → t.sfrValue r = s.sfrValue r) ∧ t.splimEn = s.splimEn ∧ t.ipl = s.ipl
  unwritten : ∀ r, r ≠ .sr → (∀ n, r ≠ .w n) → t.Unwritten r → (r = .intcon2 → t.Unwritten .disicnt) →
    t.sfrValue r = s.sfrValue r
  sr_unwritten : t.Unwritten .sr → ∀ b, b ≠ 4 → t.sr.getLsbD b = s.sr.getLsbD b
  ipl : s.nstdis = true → t.Unwritten .intcon1 → t.nstdis = true ∧ t.ipl = s.ipl
  disi : t.disiBit = true → s.disiBit = true
  ipl3 : t.ipl3 = true → s.ipl3 = true
  mode : t.mode = s.mode
  stall : t.stallOsc = s.stallOsc ∧ t.stallAddr = s.stallAddr
  skid : t.skidStack = s.skidStack ∧ t.skidMath = s.skidMath
  splimEn : s.splimEn = true → t.splimEn = true
  splim_unwritten : t.Unwritten .splim → t.splimEn = s.splimEn ∧ t.splim = s.splim
  outside : t.cfg = s.cfg ∧ t.prog = s.prog ∧ t.inputs = s.inputs

namespace State.Performed

variable {s t u : State}

theorem refl (s : State) : Performed s s where
  raised_addr := id
  raised_stk := id
  raised_math := id
  wrinh := id
  written := fun _ => id
  inhibits := fun _ => ⟨rfl, fun _ _ _ => rfl, rfl, rfl⟩
  unwritten := fun _ _ _ _ _ => rfl
  sr_unwritten := fun _ _ _ => rfl
  ipl := fun h _ => ⟨h, rfl⟩
  disi := id
  ipl3 := id
  mode := rfl
  stall := ⟨rfl, rfl⟩
  skid := ⟨rfl, rfl⟩
  splimEn := id
  splim_unwritten := fun _ => ⟨rfl, rfl⟩
  outside := ⟨rfl, rfl, rfl⟩

/-- What is unwritten in the end was unwritten before. -/
theorem before (h : Performed s t) {r : Sfr} (hr : t.Unwritten r) : s.Unwritten r := fun z hz => hr z (h.written _ hz)

theorem trans (h : Performed s t) (h' : Performed t u) : Performed s u where
  raised_addr := h'.raised_addr ∘ h.raised_addr
  raised_stk := h'.raised_stk ∘ h.raised_stk
  raised_math := h'.raised_math ∘ h.raised_math
  wrinh := h'.wrinh ∘ h.wrinh
  written := fun e he => h'.written e (h.written e he)
  inhibits := fun hw => by
    obtain ⟨hm, hv, he, hi⟩ := h.inhibits hw
    obtain ⟨hm', hv', he', hi'⟩ := h'.inhibits (h.wrinh hw)
    exact ⟨hm'.trans hm, fun r h1 h2 => (hv' r h1 h2).trans (hv r h1 h2), he'.trans he, hi'.trans hi⟩
  unwritten := fun r h1 h2 hr hd => (h'.unwritten r h1 h2 hr hd).trans
    (h.unwritten r h1 h2 (h'.before hr) fun e => h'.before (hd e))
  sr_unwritten := fun hr b hb => (h'.sr_unwritten hr b hb).trans (h.sr_unwritten (h'.before hr) b hb)
  ipl := fun hn hr => by
    obtain ⟨hn', hi⟩ := h.ipl hn (h'.before hr)
    obtain ⟨hn'', hi'⟩ := h'.ipl hn' hr
    exact ⟨hn'', hi'.trans hi⟩
  disi := h.disi ∘ h'.disi
  ipl3 := h.ipl3 ∘ h'.ipl3
  mode := h'.mode.trans h.mode
  stall := ⟨h'.stall.1.trans h.stall.1, h'.stall.2.trans h.stall.2⟩
  skid := ⟨h'.skid.1.trans h.skid.1, h'.skid.2.trans h.skid.2⟩
  splimEn := h'.splimEn ∘ h.splimEn
  splim_unwritten := fun hr => by
    obtain ⟨he, hl⟩ := h.splim_unwritten (h'.before hr)
    obtain ⟨he', hl'⟩ := h'.splim_unwritten hr
    exact ⟨he'.trans he, hl'.trans hl⟩
  outside := ⟨h'.outside.1.trans h.outside.1, h'.outside.2.1.trans h.outside.2.1, h'.outside.2.2.trans h.outside.2.2⟩

/-- The value of a register that is no W image, after a change of the other parts of the state. -/
theorem sfrValue_congr {p : ProgAddr} {c : Bool} {w : Vector Word 16} {h : Bool} {f : Nat} {m : Memory} {sl : Slot} {q : Sfr}
    (hq : ∀ n, q ≠ .w n) : State.sfrValue
      { s with pc := p, pcBeyond := c, w := w, wrinh := h, freeCount := f, mem := m, slot := sl } q = s.sfrValue q := by
  cases q with
  | w n => exact absurd rfl (hq n)
  | _ => rfl

/-- A change of the PC, the working registers, the draws and the marks, of which none is withdrawn. -/
theorem of_marks (p : ProgAddr) (c : Bool) (w : Vector Word 16) (r : TrapSet) (h : Bool) (f : Nat)
    (haddr : s.slot.raised.addr = true → r.addr = true) (hstk : s.slot.raised.stk = true → r.stk = true)
    (hmath : s.slot.raised.math = true → r.math = true) (hwrinh : s.wrinh = true → h = true) :
    Performed s { s with pc := p, pcBeyond := c, w := w, wrinh := h, freeCount := f, slot := { s.slot with raised := r } } where
  raised_addr := haddr
  raised_stk := hstk
  raised_math := hmath
  wrinh := hwrinh
  written := fun _ => id
  inhibits := fun _ => ⟨rfl, fun _ _ hq => sfrValue_congr hq, rfl, rfl⟩
  unwritten := fun _ _ hq _ _ => sfrValue_congr hq
  sr_unwritten := fun _ _ _ => rfl
  ipl := fun h _ => ⟨h, rfl⟩
  disi := id
  ipl3 := id
  mode := rfl
  stall := ⟨rfl, rfl⟩
  skid := ⟨rfl, rfl⟩
  splimEn := id
  splim_unwritten := fun _ => ⟨rfl, rfl⟩
  outside := ⟨rfl, rfl, rfl⟩

theorem raise (s : State) (x : Trap) : Performed s (s.raise x) := by
  refine of_marks s.pc s.pcBeyond s.w (s.slot.raised.insert x) (s.wrinh || x == .addressError) s.freeCount ?_ ?_ ?_ ?_
  · intro h; cases x <;> simp [TrapSet.insert, h]
  · intro h; cases x <;> simp [TrapSet.insert, h]
  · intro h; cases x <;> simp [TrapSet.insert, h]
  · intro h; rw [h]; rfl

theorem raiseIf (s : State) (c : Bool) (x : Trap) : Performed s (s.raiseIf c x) := by
  cases c
  · exact refl s
  · exact raise s x

theorem putW (s : State) (n : WReg) (v : Word) : Performed s (s.putW n v) :=
  of_marks s.pc s.pcBeyond _ s.slot.raised s.wrinh s.freeCount id id id id

theorem setW (s : State) (n : WReg) (v : Word) : Performed s (s.setW n v) := (putW s n v).trans (raiseIf _ _ _)

theorem setPc (s : State) (p : ProgAddr) : Performed s (s.setPc p) :=
  of_marks p false s.w s.slot.raised s.wrinh s.freeCount id id id id

theorem drawWord (s : State) : Performed s s.drawWord.2 :=
  of_marks s.pc s.pcBeyond s.w s.slot.raised s.wrinh _ id id id id

theorem checkAddr (s : State) (a : CpuAddr) : Performed s (s.checkAddr a) := by
  cases a with
  | plain a => exact refl s
  | viaW15 exact => exact (raiseIf s _ _).trans (raiseIf _ _ _)

theorem readWord (s : State) (a : DataAddr) : Performed s (s.readWord a).2 := by
  obtain h | h | ⟨-, h⟩ := readWord_snd_cases s a <;> rw [h]
  · exact refl s
  · exact drawWord s
  · exact (raise s _).trans (drawWord _)

theorem readByte (s : State) (a : DataAddr) : Performed s (s.readByte a).2 := by
  unfold State.readByte State.readSfr
  split
  · exact (raise s _).trans (drawWord _)
  split
  · split
    · exact refl s
    · exact drawWord s
  · exact refl s

/-- A store of bytes of memory, where no write is inhibited. -/
theorem of_mem (m : Memory) (hw : s.wrinh = false) : Performed s { s with mem := m } :=
  { refl s with
    inhibits := fun h => absurd (hw.symm.trans h) Bool.false_ne_true
    unwritten := fun _ _ hq _ _ => sfrValue_congr hq }

/-- What is unwritten is not the register just written. -/
theorem ne_of_unwritten {r q : Sfr} {z : Word} (h : (s.noteWrite r z).Unwritten q) : r ≠ q := by
  rintro rfl
  exact h z List.mem_cons_self

/-- A software write of a register that is noted; where writes are inhibited, one of SR that keeps IPL<2:0>. -/
theorem of_sfr {r : Sfr} {v : Word} (z : Word) (hw : s.wrinh = true → r = .sr ∧ (s.storeSfr r v).ipl = s.ipl) :
    Performed s ((s.storeSfr r v).noteWrite r z) where
  raised_addr := storeSfr_raised_mono s r v .addressError
  raised_stk := storeSfr_raised_mono s r v .stackError
  raised_math := storeSfr_raised_mono s r v .mathError
  wrinh := fun h => (storeSfr_wrinh s r v).trans h
  written := fun e he => by
    rw [noteWrite_slot]
    exact List.mem_cons_of_mem _ (by rwa [storeSfr_written])
  inhibits := fun h => by
    obtain ⟨rfl, hi⟩ := hw h
    exact ⟨rfl, fun q hq hn => sfrValue_storeSfr_other s v hq.symm hn nofun, rfl, hi⟩
  unwritten := fun q _ hn hq hd => sfrValue_storeSfr_other s v (ne_of_unwritten hq) hn fun e => ne_of_unwritten (hd e)
  sr_unwritten := fun hr b _ => congrArg (BitVec.getLsbD · b) (storeSfr_sr_of s (ne_of_unwritten hr) v)
  ipl := fun hn hr => ⟨(congrArg (BitVec.getLsbD · 15) (storeSfr_intcon1_of s (ne_of_unwritten hr) v)).trans hn,
    storeSfr_ipl s r v hn⟩
  disi := storeSfr_disiBit s r v
  ipl3 := storeSfr_ipl3 s r v
  mode := storeSfr_mode s r v
  stall := ⟨storeSfr_stallOsc s r v, storeSfr_stallAddr s r v⟩
  skid := ⟨storeSfr_skidStack s r v, storeSfr_skidMath s r v⟩
  splimEn := storeSfr_splimEn s r v
  splim_unwritten := fun hr => ⟨storeSfr_splimEn_of s (ne_of_unwritten hr) v, storeSfr_splim_of s (ne_of_unwritten hr) v⟩
  outside := ⟨storeSfr_cfg s r v, storeSfr_prog s r v, storeSfr_inputs s r v⟩

/-- The same where no write is inhibited. -/
theorem of_sfr_free (r : Sfr) (v z : Word) (hw : s.wrinh = false) : Performed s ((s.storeSfr r v).noteWrite r z) :=
  of_sfr z fun h => absurd (hw.symm.trans h) Bool.false_ne_true

/-- The repeat hardware changes RA alone. -/
theorem setRepeat (s : State) (b : Bool) : Performed s { s with sr := setBit s.sr 4 b } := by
  have hbit : ∀ i, i ≠ 4 → (setBit s.sr 4 b).getLsbD i = s.sr.getLsbD i := fun i hi =>
    (getLsbD_setBit _ _ _ _).trans (if_neg fun h => hi h.1)
  have hvalue : ∀ q, q ≠ .sr → (∀ n, q ≠ .w n) → State.sfrValue { s with sr := setBit s.sr 4 b } q = s.sfrValue q := by
    intro q hq hn
    cases q with
    | sr => exact absurd rfl hq
    | w n => exact absurd rfl (hn n)
    | _ => rfl
  have hipl : State.ipl { s with sr := setBit s.sr 4 b } = s.ipl := ipl_congr fun i _ _ => hbit i (by omega)
  exact { refl s with
    inhibits := fun _ => ⟨rfl, hvalue, rfl, hipl⟩
    unwritten := fun q h1 h2 _ _ => hvalue q h1 h2
    sr_unwritten := fun _ i hi => hbit i hi
    ipl := fun hn _ => ⟨hn, hipl⟩ }

theorem writeWord (s : State) (a : DataAddr) (v : Word) : Performed s (s.writeWord a v) := by
  obtain ⟨-, h⟩ | ⟨-, h⟩ | ⟨r, -, hw, h⟩ | ⟨-, hw, h⟩ := writeWord_cases s a v <;> rw [h]
  · exact raise s _
  · exact refl s
  · exact of_sfr_free r v _ hw
  · unfold State.putRamWord
    split <;> exact of_mem _ hw

theorem storeWord {a : DataAddr} {v : Word} (h : s.storeWord a v = .ok t) : Performed s t :=
  (storeWord_ok h).2 ▸ writeWord s a v

theorem writeByte {a : DataAddr} {b : Byte} (h : s.writeByte a b = .ok t) : Performed s t := by
  obtain rfl | ⟨hw, rfl⟩ | ⟨r, v, z, hw, -, -, rfl⟩ := writeByte_cases h
  · exact refl _
  · exact of_mem _ hw
  · exact of_sfr_free r v z hw

/-- The write of the arithmetic flags leaves IPL<2:0> alone, whatever NSTDIS is. -/
theorem setFlags (s : State) (v : Word) : Performed s (s.swrite .sr (blend 0x010F s.sr v)) := by
  refine of_sfr _ fun _ => ⟨rfl, ipl_congr fun b h5 h7 => (storeSr_bit s _ (by omega)).trans ?_⟩
  split
  · rfl
  · rw [getLsbD_blend, if_neg (by interval_cases b <;> decide)]

/-- Every action keeps what `Performed` says. -/
theorem perform {x : CpuAction} (h : s.perform x = .ok t) : Performed s t := by
  cases x with
  | setW n v => cases h; exact setW s n v
  | moveW15 exact => cases h; exact (raiseIf s _ _).trans (setW _ _ _)
  | setFlags v => cases h; exact setFlags s v
  | setRepeat b => cases h; exact setRepeat s b
  | setPsv b =>
    cases h
    cases hw : s.wrinh
    · exact of_sfr_free .corcon _ _ hw
    · exact refl s
  | readWord a => cases h; exact (checkAddr s a).trans (readWord _ _)
  | readByte a => cases h; exact (checkAddr s a).trans (readByte _ _)
  | writeWord a v => exact (checkAddr s a).trans (storeWord h)
  | writeByte a b => exact (checkAddr s a).trans (writeByte h)
  | indirectBit a => cases h; exact (checkAddr s a).trans (raiseIf _ _ _)
  | divide d => cases h; exact raiseIf s _ _
  | orIplIntoSrl =>
    cases h
    cases hw : s.wrinh
    · exact of_sfr_free .sr _ _ hw
    · exact refl s
  | jumpLiteral p => cases h; exact (raiseIf s _ _).trans (setPc _ _)
  | setPc p => cases h; exact setPc s _

end State.Performed

/-! ### The actions of an answer -/

theorem performAll_performed {l : List CpuAction} {s t : State} (h : s.performAll l = .ok t) : s.Performed t :=
  performAll_keeps State.Performed.refl (fun _ _ _ => State.Performed.trans) (fun _ _ _ => State.Performed.perform) l s t h

/-- Every action of a list that was performed was performed in a state on the way. -/
theorem performAll_mem {l : List CpuAction} {s t : State} {x : CpuAction} (hx : x ∈ l) (h : s.performAll l = .ok t) :
    ∃ u v, s.Performed u ∧ u.perform x = .ok v ∧ v.Performed t := by
  induction l generalizing s with
  | nil => cases hx
  | cons y rest ih =>
    obtain ⟨u, hu, ht⟩ := performAll_cons s y rest h
    rcases List.mem_cons.1 hx with rfl | hx
    · exact ⟨s, u, .refl s, hu, performAll_performed ht⟩
    · obtain ⟨u', v, hu', hv, ht'⟩ := ih hx ht
      exact ⟨u', v, (State.Performed.perform hu).trans hu', hv, ht'⟩

/-- An address error of the spec is raised (R159 item 1). -/
theorem perform_addressError {s t : State} {x : CpuAction} (hx : x.addressError s.cfg = true) (h : s.perform x = .ok t) :
    t.slot.raised.addr = true := by
  have hcfg : ∀ a, (s.checkAddr a).cfg = s.cfg := fun a => (State.Performed.checkAddr s a).outside.1
  cases x with
  | readWord a =>
    cases h
    have hbad : (a.addr.getLsbD 0 || !(s.checkAddr a).cfg.dataImplemented a.addr) = true := by rw [hcfg]; exact hx
    rw [readWord_snd_slot, if_pos hbad]
    rfl
  | readByte a =>
    cases h
    have hbad : (!(s.checkAddr a).cfg.dataImplemented a.addr) = true := by rw [hcfg]; exact hx
    rw [State.readByte, if_pos hbad]
    rfl
  | writeWord a v =>
    rw [(storeWord_ok h).2, writeWord_odd v hx]
    rfl
  | indirectBit a =>
    cases h
    rw [State.checkIndirectBit, show a.addr.getLsbD 0 = true from hx]
    rfl
  | jumpLiteral p =>
    cases h
    rw [State.jump, show (!s.cfg.progImplemented (p ++ 0#1)) = true from hx]
    rfl
  | _ => cases hx

/-- An action that uses an address formed from W15 first checks it. -/
theorem perform_stackAddr {s t : State} {x : CpuAction} {exact : Nat} (hx : x.stackAddr = some exact) (h : s.perform x = .ok t) :
    (s.checkAddr (.viaW15 exact)).Performed t := by
  cases x with
  | readWord a =>
    cases a with
    | plain a => cases hx
    | viaW15 e => cases hx; cases h; exact .readWord _ _
  | readByte a =>
    cases a with
    | plain a => cases hx
    | viaW15 e => cases hx; cases h; exact .readByte _ _
  | writeWord a v =>
    cases a with
    | plain a => cases hx
    | viaW15 e => cases hx; exact .storeWord h
  | writeByte a b =>
    cases a with
    | plain a => cases hx
    | viaW15 e => cases hx; exact .writeByte h
  | indirectBit a =>
    cases a with
    | plain a => cases hx
    | viaW15 e => cases hx; cases h; exact .raiseIf _ _ _
  | _ => cases hx

theorem raiseIf_stk (s : State) (c : Bool) : (s.raiseIf c .stackError).slot.raised.stk = (s.slot.raised.stk || c) := by
  cases c
  · exact (Bool.or_false _).symm
  · exact (Bool.or_true _).symm

/-- The checks of R186 to R188 on an address formed from W15. -/
theorem checkAddr_stk (s : State) (exact : Nat) : (s.checkAddr (.viaW15 exact)).slot.raised.stk =
    (s.slot.raised.stk || s.stackFaulty (BitVec.ofNat 16 exact) || decide (0xFFFF < exact)) := by
  rw [State.checkAddr, raiseIf_stk, State.checkStackEA, raiseIf_stk]
  rfl

/-! ### The refusals of an answer -/

/-- The refusals of a write of a register. -/
def Refusal.ofWrite (r : Refusal) : Prop := r = .splimByteWrite ∨ r = .rconOtherUse ∨ r = .oscconOtherUse

theorem writeByte_error {s : State} {a : DataAddr} {b : Byte} {r : Refusal} (h : s.writeByte a b = .error r) : r.ofWrite := by
  unfold State.writeByte State.swriteByte at h
  split at h
  · cases h
  split at h
  · split at h
    · cases h; exact .inl rfl
    split at h
    · cases h; exact .inr (.inl rfl)
    split at h
    · cases h; exact .inr (.inr rfl)
    · cases h
  · cases h

theorem perform_error {s : State} {x : CpuAction} {r : Refusal} (h : s.perform x = .error r) : r.ofWrite := by
  cases x with
  | writeWord a v => exact .inr (.inl (storeWord_error h).2)
  | writeByte a b => exact writeByte_error h
  | _ => cases h

theorem performAll_error {l : List CpuAction} {s : State} {r : Refusal} (h : s.performAll l = .error r) : r.ofWrite := by
  induction l generalizing s with
  | nil => cases h
  | cons x rest ih =>
    unfold State.performAll at h
    split at h
    · exact ih h
    · next r' hr' =>
      cases h
      exact perform_error hr'

theorem runAnswer_completes (s : State) (a : CpuAnswer) : (∃ t, s.runAnswer a = .ok t) ∨
    s.runAnswer a = .error .splimByteWrite ∨ s.runAnswer a = .error .rconOtherUse ∨ s.runAnswer a = .error .oscconOtherUse := by
  cases h : s.runAnswer a with
  | ok t => exact .inl ⟨t, rfl⟩
  | error r =>
    have hr : r.ofWrite := by
      unfold State.runAnswer at h
      split at h
      · cases h
      · next r' hr' =>
        cases h
        exact performAll_error hr'
    obtain rfl | rfl | rfl := hr <;> simp

/-! ### The contract -/

theorem checkAddr_sr (s : State) (a : CpuAddr) : (s.checkAddr a).sr = s.sr := by
  cases a with
  | plain a => rfl
  | viaW15 exact => rw [State.checkAddr, raiseIf_sr, checkStackEA_sr]

/-- Only the repeat hardware changes RA (log 39). -/
theorem perform_ra {s t : State} {x : CpuAction} (hx : ∀ b, x ≠ .setRepeat b) (h : s.perform x = .ok t) :
    t.sr.getLsbD 4 = s.sr.getLsbD 4 := by
  cases x with
  | setW n v => cases h; rw [setW_sr]
  | moveW15 exact => cases h; rw [setW_sr, raiseIf_sr]
  | setFlags v => cases h; exact storeSfr_ra s .sr _
  | setRepeat b => exact absurd rfl (hx b)
  | setPsv b => cases h; cases s.wrinh <;> rfl
  | readWord a => cases h; rw [readWord_snd_sr, checkAddr_sr]
  | readByte a => cases h; rw [readByte_snd_sr, checkAddr_sr]
  | writeWord a v => rw [(storeWord_write h).ra, checkAddr_sr]
  | writeByte a b => rw [(writeByte_write h).ra, checkAddr_sr]
  | indirectBit a => cases h; rw [State.checkIndirectBit, raiseIf_sr, checkAddr_sr]
  | divide d => cases h; rw [State.checkDivisor, raiseIf_sr]
  | orIplIntoSrl =>
    cases h
    cases s.wrinh
    · exact storeSfr_ra s .sr _
    · rfl
  | jumpLiteral p => cases h; rw [State.jump, setPc_sr, raiseIf_sr]
  | setPc p => cases h; rfl

theorem performAll_ra {l : List CpuAction} {s t : State} (hl : ∀ b, CpuAction.setRepeat b ∉ l) (h : s.performAll l = .ok t) :
    t.sr.getLsbD 4 = s.sr.getLsbD 4 := by
  induction l generalizing s with
  | nil => cases h; rfl
  | cons x rest ih =>
    obtain ⟨u, hu, ht⟩ := performAll_cons s x rest h
    have hx : ∀ b, x ≠ .setRepeat b := by
      rintro b rfl
      exact hl b List.mem_cons_self
    exact (ih (fun b hb => hl b (List.mem_cons_of_mem _ hb)) ht).trans (perform_ra hx hu)

/-- Performing an answer keeps the contract R159. -/
theorem runAnswer_contract {a : CpuAnswer} {s t : State} (h : s.runAnswer a = .ok t) : CpuStepContract a s t := by
  obtain ⟨u, hu, rfl⟩ := runAnswer_ok h
  have hp := performAll_performed hu
  have hstk : ∀ x ∈ a.actions, ∀ exact, x.stackAddr = some exact →
      ∃ v, (s.beginAnswer a).Performed v ∧ (v.checkAddr (.viaW15 exact)).Performed u := fun x hx exact hex => by
    obtain ⟨v, w, hv, hvw, hw⟩ := performAll_mem hx hu
    exact ⟨v, hv, (perform_stackAddr hex hvw).trans hw⟩
  exact {
    address_raised := fun ha => by
      obtain ⟨x, hx, hxe⟩ := List.any_eq_true.1 ha
      obtain ⟨v, w, hv, hvw, hw⟩ := performAll_mem hx hu
      exact hw.raised_addr (perform_addressError (by rw [hv.outside.1]; exact hxe) hvw)
    address_inhibits := fun ha => hp.inhibits ha
    stack_range := fun x hx exact hex hr => by
      obtain ⟨v, -, hvu⟩ := hstk x hx exact hex
      refine hvu.raised_stk ?_
      rw [checkAddr_stk, State.stackFaulty, BitVec.toNat_ofNat]
      obtain hr | hr := hr
      · rw [decide_eq_true hr]; simp
      · rw [decide_eq_true hr]; simp
    stack_limit := fun x hx exact hex hen hun hlt => by
      obtain ⟨v, hv, hvu⟩ := hstk x hx exact hex
      have hvu' : v.Performed u := (State.Performed.checkAddr v _).trans hvu
      obtain ⟨hve, hvl⟩ := hv.splim_unwritten (hvu'.before hun)
      refine hvu.raised_stk ?_
      rw [checkAddr_stk, State.stackFaulty, BitVec.toNat_ofNat, hve, hvl, show (s.beginAnswer a).splimEn = true from hen,
        decide_eq_true (show ((s.beginAnswer a).splim &&& 0xFFFE).toNat < exact % 2 ^ 16 from hlt)]
      simp
    divide_by_zero := fun hx => by
      obtain ⟨v, w, -, hvw, hw⟩ := performAll_mem hx hu
      cases hvw
      exact hw.raised_math rfl
    unwritten_kept := hp.unwritten
    sr_kept := hp.sr_unwritten
    ra_kept := fun hl => performAll_ra (s := s.beginAnswer a) (t := u) hl hu
    ipl_kept := fun hn hr => (hp.ipl hn hr).2
    disi_not_set := hp.disi
    ipl3_not_set := hp.ipl3
    cycles := rfl
    mode_kept := hp.mode
    stall_kept := hp.stall
    skid_kept := hp.skid
    splimEn_kept := hp.splimEn
    splimEn_set := fun hr => (hp.splim_unwritten hr).1
    outside_kept := hp.outside }

/-- Settles O60: the contract, the refusals of the writes, and the address error of an odd bit address. -/
theorem externalAnswersKeepContract : Obligations.ExternalAnswersKeepContract := by
  refine fun a s => ⟨fun t h => runAnswer_contract h, runAnswer_completes s a, fun t ea h hea hodd => ?_⟩
  exact (runAnswer_contract h).address_raised (List.any_eq_true.2 ⟨_, hea, hodd⟩)

end Sys2Proof.Machine
end
